-- ==== Sys2Proof/Word.lean ====
section
/-! DEFINITION. The word types of the block: bytes of the shared buffers, the three formats' code words, numbers. -/

namespace Sys2Proof

/-- A byte of `MEM` (rule R60); bit 0 is the least significant (rule R8). -/
abbrev Byte := BitVec 8

/-- A format H command word (rule R92). -/
abbrev HostWord := BitVec 32

/-- A format S step code, the width of `pc[f]` (rules R27, R96). -/
abbrev StepCode := BitVec 4

/-- A format P port-operation code (rule R97). -/
abbrev PortCode := BitVec 3

/-- The `ID` field of a command word: the number of a BAR or of a flow (rule R92). -/
abbrev Id := BitVec 12

end Sys2Proof
end

