-- ==== Sys2Proof/Syntax.lean ====
section
/-! DEFINITION. The 25 operations of the opcode map (rule R98), the two side-band records (rules R93, R94),
and the inputs by which the agents outside one transition choose what happens next (rules R20, R198, R200). -/

namespace Sys2Proof

/-- One constructor per row of the opcode map (rule R98). A class H operation carries what its command word carries;
class S and P operations carry nothing, their operands are state (rules R96, R97). -/
inductive Instr where
  | bnew (b : Id)
  | bread (b : Id)
  | bwrite (b : Id) (v : Bool)
  | fnew (f : Id)
  | finit (f : Id)
  | ftrig (f : Id)
  | s1Wait
  | s2Acq
  | s3LatchLow
  | s4SerOut
  | s5Filler
  | s6SettlePre
  | s7LatchHigh
  | s8DeserIn
  | s9SettlePost
  | s10LatchLow
  | s11Rel
  | s12Loop
  | lclr
  | lset
  | topen
  | twrite
  | tread
  | xacq
  | xrel
deriving DecidableEq, Repr

/-- The BNEW descriptor record (rule R93): `BASE`, `LEN`, `INDEX`, `POL`. -/
structure BarRecord where
  base : Nat
  len : Nat
  index : Nat
  pol : Bool
deriving DecidableEq, Repr, Inhabited

/-- The FNEW descriptor record (rule R94). `period` is an integer so that a period of zero or less can be presented
and refused (rule R141). -/
structure FlowRecord where
  ctx : Nat
  tport : Nat
  latch : Nat
  xp : Bool
  xid : Nat
  op : Bool
  optr : Nat
  olen : Nat
  ip : Bool
  iptr : Nat
  ilen : Nat
  period : Int
deriving DecidableEq, Repr, Inhabited

/-- What an agent does next (rules R20, R200); one input is one transition of the block. -/
inductive Input where
  /-- Host context `h` presents a command word, with the side-band records, on its command port (rule R95). -/
  | host (h : Nat) (w : HostWord) (bar : BarRecord) (flow : FlowRecord)
  /-- The operation in progress on host port `h` performs its next memory event (BWRITE's second, rule R70). -/
  | resume (h : Nat)
  /-- The sequencer of flow `f` takes its next transition (rule R20 (1)). -/
  | sequencer (f : Nat)
  /-- The environment answers the port operation flow `f` has in flight: `ok` answers TOPEN, `cnt` answers TWRITE,
  `cnt` and `data` answer TREAD, the answer itself is the grant of XACQ (rules R192 to R195). -/
  | answer (f : Nat) (ok : Bool) (cnt : Int) (data : List Byte)
  /-- One unit of the time base for flow `f`: its period wait or its hold gets shorter (rule R197). -/
  | tick (f : Nat)
  /-- Host context `h`, as owner of the buffers, writes one byte of `MEM` directly (rules R37, R200). -/
  | ownerWrite (h : Nat) (a : Nat) (v : Byte)
  /-- The host frees or moves the `len` bytes at `base` (rule R82). -/
  | bufferGone (base : Nat) (len : Nat)
  /-- Outside the block, host context `a` synchronises with host context `b`: all that `a` has done comes wholly before
  all that `b` does from now on (rules R75, R260; log 15). -/
  | sync (a b : Nat)
  /-- The process starts again (rules R220, R250). -/
  | restart
deriving DecidableEq, Repr, Inhabited

end Sys2Proof
end

