-- ==== Sys2Proof/Config.lean ====
section
/-! DEFINITION. The implementation parameters of rule R7 as one record, and the free values: constants with no body
for what the spec leaves open. -/

namespace Sys2Proof

/-- The parameters of rule R7 that a rule of the block reads. The record is a field of `State` that no transition
changes, so a statement about every state is a statement about every configuration (log 1). -/
structure Config where
  /-- `WORD_BYTES`, bytes in the native machine word (D4). -/
  wordBytes : Nat
  /-- `ADDR_BITS`: addresses are below `2 ^ addrBits` (D5). -/
  addrBits : Nat
  /-- `LEN_BITS` (D5). -/
  lenBits : Nat
  /-- `N_BARS` (D5). -/
  nBars : Nat
  /-- `N_FLOWS` (D5). -/
  nFlows : Nat
  /-- `N_TRANSPORTS` (D5). -/
  nTransports : Nat
  /-- `N_LATCHES` (D5). -/
  nLatches : Nat
  /-- `N_EXCL` (D5). -/
  nExcl : Nat
  /-- The number of host command ports, one per host execution context (rule R95). -/
  nPorts : Nat
  /-- `GRANULE`: the bytes a BAR write reads and writes back, 1 or `WORD_BYTES` (D3). -/
  granule : Nat
  /-- `BITMAP`, where it is not the default map of D1: for a buffer length in bytes, the place of each bit index, place
  `8 * n + k` being bit `k` of byte `n`. A length that is not listed has the default, place `i` for index `i` (D1, U13;
  log 19). -/
  bitmap : List (Nat × List Nat)
  /-- `BAR_WRITE_XOR`: whether a BAR write applies the polarity (D2). -/
  barWriteXor : Bool
  /-- `FILLER`, the byte of step 5 (D16). -/
  filler : Byte
  /-- `T_SETTLE_PRE`, in units of the time base (D15). -/
  tSettlePre : Nat
  /-- `T_SETTLE_POST`, in units of the time base (D15). -/
  tSettlePost : Nat
deriving DecidableEq, Repr

/-- FREE VALUE: the filler byte of the machine of `State.reset` (rule R165, D16; log 2). -/
opaque Config.freeFiller : Byte

/-- FREE VALUE: `T_SETTLE_PRE` of the machine of `State.reset`, less one (rule R166, D15; log 2). -/
opaque Config.freeSettlePre : Nat

/-- FREE VALUE: `T_SETTLE_POST` of the machine of `State.reset`, less one (rule R169, D15; log 2). -/
opaque Config.freeSettlePost : Nat

/-- FREE VALUE: what a byte of `MEM` that nothing has written reads as, fixed per address (rules R41, R254, D36;
log 3). -/
opaque Config.freeByte : Nat → Byte

/-- FREE VALUE: what the agents outside do next when no input is written down in `State.script`: the n-th such
choice (rules R20, R200, D29; log 4). -/
opaque Config.freeInput : Nat → Input

/-- The parameters of the machine of `State.reset`: the configuration every vector of 95_test_vectors.md uses, with
`BITMAP` and `BAR_WRITE_XOR` at their defaults, two host contexts, and free values for the filler byte and the two settling delays (log 1, log 2). -/
def Config.atReset : Config where
  wordBytes := 4
  addrBits := 16
  lenBits := 8
  nBars := 8
  nFlows := 4
  nTransports := 2
  nLatches := 4
  nExcl := 2
  nPorts := 2
  granule := 1
  bitmap := []
  barWriteXor := true
  filler := Config.freeFiller
  tSettlePre := Config.freeSettlePre + 1
  tSettlePost := Config.freeSettlePost + 1

end Sys2Proof
end

