-- ==== Sys2Proof/WellFormed.lean ====
section
/-! DEFINITION. The checks on parameters, records and operations that the spec states as constraints on what can be
configured or presented. -/

namespace Sys2Proof

/-- The constraints of rule R7 on the parameters. The word divides the address space, so that the granule of an
existing byte exists (rules R67, R70; log 5); for every length `BITMAP` is a bijection onto the bits of the buffer
(rule R62, D1). -/
abbrev Config.wf (c : Config) : Prop :=
  (∃ k, k ≤ c.addrBits ∧ c.wordBytes = 2 ^ k) ∧ (c.granule = 1 ∨ c.granule = c.wordBytes) ∧
  (∀ e ∈ c.bitmap, e.2.Perm (List.range (8 * e.1))) ∧ c.nBars ≤ 4096 ∧ c.nFlows ≤ 4096 ∧ 0 < c.tSettlePre ∧ 0 < c.tSettlePost

/-- A BNEW record the side-band port of these widths can carry (rule R93). -/
abbrev BarRecord.fits (c : Config) (r : BarRecord) : Prop :=
  r.base < 2 ^ c.addrBits ∧ r.len < 2 ^ c.lenBits ∧ r.index < 2 ^ (c.lenBits + 3)

/-- An FNEW record the side-band port of these widths can carry (rules R24, R94). -/
abbrev FlowRecord.fits (c : Config) (r : FlowRecord) : Prop :=
  r.optr < 2 ^ c.addrBits ∧ r.olen < 2 ^ c.lenBits ∧ r.iptr < 2 ^ c.addrBits ∧ r.ilen < 2 ^ c.lenBits

/-- The operation names a BAR or a flow the machine has (rule R100). Every other operation is well-formed by its
type. -/
abbrev Instr.wf (c : Config) : Instr → Prop
  | .bnew b | .bread b | .bwrite b _ => b.toNat < c.nBars
  | .fnew f | .finit f | .ftrig f => f.toNat < c.nFlows
  | .s1Wait | .s2Acq | .s3LatchLow | .s4SerOut | .s5Filler | .s6SettlePre | .s7LatchHigh | .s8DeserIn
  | .s9SettlePost | .s10LatchLow | .s11Rel | .s12Loop
  | .lclr | .lset | .topen | .twrite | .tread | .xacq | .xrel => True

end Sys2Proof
end

