-- ==== Sys2Proof/Decode.lean ====
section
/-! DEFINITION. The decoders of the three formats, total and rejecting by name (rules R100 to R103), and after them
the encoders, written from the same tables (rules R92, R96 to R98). -/

namespace Sys2Proof

/-- Why a code word names no operation (rules R100, R101). -/
inductive Illegal where
  /-- A command word whose `OP` is 0 or 7 to 15. -/
  | opcode
  /-- A command word with a bit of `ZERO` (15:1) set. -/
  | zeroField
  /-- A command word other than BWRITE's with `V` set. -/
  | vBit
  /-- Step code 0 or 13 to 15. -/
  | stepCode
  /-- Port-operation code 0. -/
  | portCode
deriving DecidableEq, Repr

/-- `OP`, bits 31:28 of a command word (rule R92). -/
def hostOp (w : HostWord) : BitVec 4 := w.extractLsb' 28 4

/-- `ID`, bits 27:16 of a command word (rule R92). -/
def hostId (w : HostWord) : Id := w.extractLsb' 16 12

/-- `ZERO`, bits 15:1 of a command word (rule R92). -/
def hostZero (w : HostWord) : BitVec 15 := w.extractLsb' 1 15

/-- `V`, bit 0 of a command word (rule R92). -/
def hostV (w : HostWord) : Bool := w.getLsbD 0

/-- An operation whose `V` must be zero (rule R92). -/
def needsZeroV (v : Bool) (i : Instr) : Except Illegal Instr :=
  if v then .error .vBit else .ok i

/-- The decoder of format H (rule R103). -/
def decodeH (w : HostWord) : Except Illegal Instr :=
  if hostZero w ≠ 0#15 then .error .zeroField
  else if hostOp w = 0x1#4 then needsZeroV (hostV w) (.bnew (hostId w))
  else if hostOp w = 0x2#4 then needsZeroV (hostV w) (.bread (hostId w))
  else if hostOp w = 0x3#4 then .ok (.bwrite (hostId w) (hostV w))
  else if hostOp w = 0x4#4 then needsZeroV (hostV w) (.fnew (hostId w))
  else if hostOp w = 0x5#4 then needsZeroV (hostV w) (.finit (hostId w))
  else if hostOp w = 0x6#4 then needsZeroV (hostV w) (.ftrig (hostId w))
  else .error .opcode

/-- The decoder of format S: the step a value of `pc[f]` selects (rules R96, R98, R101). -/
def decodeS (c : StepCode) : Except Illegal Instr :=
  if c = 1#4 then .ok .s1Wait
  else if c = 2#4 then .ok .s2Acq
  else if c = 3#4 then .ok .s3LatchLow
  else if c = 4#4 then .ok .s4SerOut
  else if c = 5#4 then .ok .s5Filler
  else if c = 6#4 then .ok .s6SettlePre
  else if c = 7#4 then .ok .s7LatchHigh
  else if c = 8#4 then .ok .s8DeserIn
  else if c = 9#4 then .ok .s9SettlePost
  else if c = 10#4 then .ok .s10LatchLow
  else if c = 11#4 then .ok .s11Rel
  else if c = 12#4 then .ok .s12Loop
  else .error .stepCode

/-- The decoder of format P (rules R97, R98, R101). -/
def decodeP (c : PortCode) : Except Illegal Instr :=
  if c = 1#3 then .ok .lclr
  else if c = 2#3 then .ok .lset
  else if c = 3#3 then .ok .topen
  else if c = 4#3 then .ok .twrite
  else if c = 5#3 then .ok .tread
  else if c = 6#3 then .ok .xacq
  else if c = 7#3 then .ok .xrel
  else .error .portCode

/-- A code word together with the class of the port it stands on; the class is never read from the bits (rules R90,
R91). -/
inductive Code where
  /-- Format H, on a host command port. -/
  | h (w : HostWord)
  /-- Format S, in a sequencer's `pc[f]`. -/
  | s (c : StepCode)
  /-- Format P, on a latch, transport or exclusion port. -/
  | p (c : PortCode)
deriving DecidableEq, Repr

/-- The decoder of all three formats. -/
def decode : Code → Except Illegal Instr
  | .h w => decodeH w
  | .s c => decodeS c
  | .p c => decodeP c

/-- A command word from its fields: `(code(op) << 28) OR (id << 16) OR v` (rule R103). -/
def hostWord (op : BitVec 4) (id : Id) (v : Bool) : HostWord :=
  op ++ id ++ (0#15 : BitVec 15) ++ BitVec.ofBool v

/-- The code word of an operation (rules R92, R96 to R98). -/
def encode : Instr → Code
  | .bnew b => .h (hostWord 0x1#4 b false)
  | .bread b => .h (hostWord 0x2#4 b false)
  | .bwrite b v => .h (hostWord 0x3#4 b v)
  | .fnew f => .h (hostWord 0x4#4 f false)
  | .finit f => .h (hostWord 0x5#4 f false)
  | .ftrig f => .h (hostWord 0x6#4 f false)
  | .s1Wait => .s 1#4
  | .s2Acq => .s 2#4
  | .s3LatchLow => .s 3#4
  | .s4SerOut => .s 4#4
  | .s5Filler => .s 5#4
  | .s6SettlePre => .s 6#4
  | .s7LatchHigh => .s 7#4
  | .s8DeserIn => .s 8#4
  | .s9SettlePost => .s 9#4
  | .s10LatchLow => .s 10#4
  | .s11Rel => .s 11#4
  | .s12Loop => .s 12#4
  | .lclr => .p 1#3
  | .lset => .p 2#3
  | .topen => .p 3#3
  | .twrite => .p 4#3
  | .tread => .p 5#3
  | .xacq => .p 6#3
  | .xrel => .p 7#3

/-- The code word that `nbits` bits of value `w` are, by the length of its class alone (rule R91): 32 bits are a
command word, 3 bits a port-operation code; a 4-bit code, or one held in a byte, is a step code (log 6). -/
def tableCode (nbits w : Nat) : Option Code :=
  if nbits = 32 then (if w < 2 ^ 32 then some (.h (BitVec.ofNat 32 w)) else none)
  else if nbits = 3 then (if w < 2 ^ 3 then some (.p (BitVec.ofNat 3 w)) else none)
  else if nbits = 4 ∨ nbits = 8 then (if w < 2 ^ 4 then some (.s (BitVec.ofNat 4 w)) else none)
  else none

/-- The instruction the decoder reads from a row's word, as the host asks for it. -/
def decodeTableWord (nbits w : Nat) : Option Instr :=
  match tableCode nbits w with
  | some c => (match decode c with
    | .ok i => some i
    | .error _ => none)
  | none => none

end Sys2Proof
end

