-- ==== Sys2Proof/Machine/State.lean ====
section
/-! DEFINITION. The state of the block (10_state.md), the model's own fields beside it, the ways a transition can
stop, and the state after reset (rule R41). -/

namespace Sys2Proof.Machine

/-- `FATAL_CAUSE` (rule R211). -/
inductive Cause where
  /-- Code 0: no fatal halt. -/
  | none
  /-- Code 1, raised by FINIT: the transport did not open. -/
  | initOpenFail
  /-- Code 2, raised by FNEW: a present buffer pointer is not word-aligned. -/
  | initMisaligned
  /-- Code 3, raised in S4 and S5: a wrong count was written. -/
  | ioShortWrite
  /-- Code 4, raised in S8: a wrong count was read. -/
  | ioShortRead
  /-- Code 5, raised by BNEW: the bit index is out of range. -/
  | barIndexRange
deriving DecidableEq, Repr

/-- The reasons of `refuse(reason)` (rule R230). -/
inductive Reason where
  | badId
  | badPhase
  | badPeriod
  | zeroLength
  | bufferWraps
  | barBaseUnaligned
  | sharing
  | illegalWord
  | bufferGone
deriving DecidableEq, Repr

/-- The level last driven on a latch line (rule R34): X, 0, 1. -/
inductive Level where
  | x
  | low
  | high
deriving DecidableEq, Repr

/-- `flow[f].PHASE` (rule R26): codes 0, 1, 2. -/
inductive Phase where
  | void
  | constructed
  | live
deriving DecidableEq, Repr

/-- Which settling delay (rules R166, R169). -/
inductive Hold where
  | pre
  | post
deriving DecidableEq, Repr

/-- What ended the wait of S1 (rule R161). -/
inductive WaitCause where
  | period
  | trigger
deriving DecidableEq, Repr

/-- `flow[f].INFLIGHT` (rule R33): the port operation issued and not yet answered. `lclr`, `lset` and `xrel` are the
model's own: no step leaves one in flight, since these complete at once (rules R190, R191, R196); they let the
format P operation be presented on its port by itself (log 7). -/
inductive PortOp where
  | none
  | topen
  | twrite (bytes : List Byte) (n : Nat)
  | tread (n : Nat)
  | xacq (x : Nat)
  | delay (k : Hold)
  | lclr
  | lset
  | xrel
deriving DecidableEq, Repr

/-- The model's own: how far S4 or S8 is through its memory events (rule R77, D37; log 8). -/
inductive Work where
  /-- No memory event of a step is outstanding. -/
  | idle
  /-- S4 has read these bytes so far. -/
  | gather (got : List Byte)
  /-- S8 has stored `k` bytes and has these left, the next at `IPTR + k`. -/
  | store (k : Nat) (rest : List Byte)
deriving DecidableEq, Repr

/-- A Bit-Addressable Register (rule R22): `VALID` and the descriptor `BASE`, `LEN`, `INDEX`, `POL`. -/
structure Bar where
  valid : Bool
  desc : BarRecord
deriving DecidableEq, Repr

/-- A Refresh Flow: its configuration fields (rule R24) and its working registers (rules R26 to R33). -/
structure Flow where
  /-- `CTX, TPORT, LATCH, XP, XID, OP, OPTR, OLEN, IP, IPTR, ILEN, PERIOD` (rule R24). -/
  conf : FlowRecord
  /-- `PHASE` (rule R26). -/
  phase : Phase
  /-- `pc[f]` (rule R27). -/
  pc : StepCode
  /-- `TRIG` (rule R28). -/
  trig : Bool
  /-- `HELD` (rule R29). -/
  held : Bool
  /-- `TIMER` (rule R31), in units of the time base. -/
  timer : Int
  /-- `OPENED` (rule R32). -/
  opened : Bool
  /-- `INFLIGHT` (rule R33). -/
  inflight : PortOp
  /-- The model's own: the place inside S4 or S8 (log 8). -/
  work : Work
  /-- The down-count of the settling delay in progress (rule R105 (i)), in units of the time base. -/
  hold : Nat
deriving DecidableEq, Repr

/-- The model's own: what a host command port is in the middle of (rules R70, R95; log 9). -/
inductive Pending where
  /-- Nothing: the port accepts a command word. -/
  | none
  /-- BWRITE `b, v` has read its granule and has not written it back. -/
  | bwrite (b : Id) (v : Bool) (old : List Byte)
  /-- FINIT of flow `f` waits for the transport's answer, while `INFLIGHT` of `f` is TOPEN. -/
  | finit (f : Nat)
deriving DecidableEq, Repr

/-- A host command port (rules R95, R198). -/
structure Port where
  /-- The bit the last BREAD on this port returned (rule R122; log 9). -/
  result : Bool
  pending : Pending
deriving DecidableEq, Repr

/-- The model's own: a write that a host context has made to `MEM`, kept for the test of rule R75 (log 15). -/
structure Written where
  /-- The number of the aligned word. -/
  word : Nat
  /-- The host context. -/
  host : Nat
  /-- Whether it was a BWRITE; otherwise it was a direct write. -/
  rmw : Bool
  /-- The host contexts that external synchronisation has ordered after it. -/
  seen : List Nat
deriving DecidableEq, Repr

/-- An event of the trace (rule R46); each carries the number of the flow that performed it, where a flow did. -/
inductive Event where
  | lclr (f l : Nat)
  | lset (f l : Nat)
  | topen (f t : Nat) (ok : Bool)
  | twrite (f t : Nat) (bytes : List Byte) (cnt : Int)
  | tread (f t n : Nat) (cnt : Int) (data : List Byte)
  | xacq (f x : Nat)
  | xrel (f x : Nat)
  | delay (f : Nat) (k : Hold)
  | wait (f : Nat) (c : WaitCause)
  | fatal (c : Cause) (u : Nat)
deriving DecidableEq, Repr

/-- The signals on the block's ports during the transition in progress (rules R95, R97, R198; log 10). -/
structure Bus where
  /-- The host command port addressed. -/
  hport : Nat
  /-- The BNEW side-band record (rule R93). -/
  bar : BarRecord
  /-- The FNEW side-band record (rule R94). -/
  conf : FlowRecord
  /-- The flow whose sequencer acts, or whose port operation is answered. -/
  flow : Nat
  /-- The answer to TOPEN (rule R192). -/
  ok : Bool
  /-- The answer to TWRITE, or the count of the answer to TREAD (rules R193, R194). -/
  cnt : Int
  /-- The bytes of the answer to TREAD (rule R194). -/
  data : List Byte
deriving DecidableEq, Repr

/-- The whole state. The tables list the numbers that have been written; an unlisted number reads as its reset value
(log 11). -/
structure State where
  /-- The parameters of rule R7; no transition changes them (log 1). -/
  cfg : Config
  /-- `bar[b]` (rule R22). -/
  bars : List (Nat × Bar)
  /-- `flow[f]` (rules R24 to R33). -/
  flows : List (Nat × Flow)
  /-- `latch[l]` (rule R34). -/
  latches : List (Nat × Level)
  /-- `excl[x].OWNER` (rule R35). -/
  owners : List (Nat × Option Nat)
  /-- `MEM` (rule R37): the bytes something has written, in canonical form (log 3). -/
  mem : List Host.Cell
  /-- `FATAL` (rule R30). -/
  fatal : Bool
  /-- `FATAL_CAUSE` (rules R30, R211). -/
  fatalCause : Cause
  /-- `FATAL_UNIT` (rule R30). -/
  fatalUnit : Nat
  /-- `trace` (rule R46), oldest event first. -/
  trace : List Event
  /-- `REFUSED` (rule R47). -/
  refused : Bool
  /-- The model's own: the reason of the latest refusal (rule R230; log 12). -/
  refusedWhy : Option Reason
  /-- The host command ports (rules R95, R198). -/
  ports : List (Nat × Port)
  /-- The model's own: the latest write of each host context to each word, by kind (rule R75; log 15). -/
  writes : List Written
  /-- The port signals of the transition in progress (log 10). -/
  bus : Bus
  /-- The model's own: the inputs still to come that are written down (log 4). -/
  script : List Input
  /-- The model's own: how many inputs were drawn from `Config.freeInput` (log 4). -/
  draws : Nat
deriving DecidableEq, Repr

/-- The ways the machine stops. -/
inductive Fault where
  /-- Every operation and every agent, when `FATAL = 1`: no agent of the block has any step (rule R216). Safe: the
  halt itself is a next state, and after it the spec gives no step. -/
  | halted (c : Cause) (u : Nat)
  /-- BWRITE, S8 and a direct host write, when two writers meet over the word of byte `a`, and BWRITE and a direct host
  write that no synchronisation orders after another host context's (rules R75, R76, R232).
  Safe: the spec calls it a fault of the program and gives the state after it no meaning. -/
  | race (a : Nat)
  /-- Any access to an address outside `MEM` (rule R60). Safe: the address does not exist. -/
  | noSuchAddress (a : Nat)
  /-- A live sequencer whose `pc[f]` is no step code (rule R101). Safe: the codes are never written. -/
  | noSuchStep (f : Nat)
deriving DecidableEq, Repr

/-- The reasons the model gives an operation no meaning. -/
inductive Refusal where
  /-- An arm of `exec` that has no meaning yet; none is left. Safe: nothing is claimed of it. -/
  | notModelled (mnemonic : String)
deriving DecidableEq, Repr

/-- A BAR at reset (rule R41): not valid; the descriptor's zeros are the model's choice (log 13). -/
def Bar.reset : Bar where
  valid := false
  desc := ⟨0, 0, 0, false⟩

/-- A flow at reset (rule R41): VOID, `pc` 0, nothing pending; the zeros of the configuration, of `TIMER` and of the
hold are the model's choice (log 13). -/
def Flow.reset : Flow where
  conf := ⟨0, 0, 0, false, 0, false, 0, 0, false, 0, 0, 0⟩
  phase := .void
  pc := 0#4
  trig := false
  held := false
  timer := 0
  opened := false
  inflight := .none
  work := .idle
  hold := 0

/-- A host command port at reset: idle; its result bit's zero is the model's choice (log 13). -/
def Port.reset : Port where
  result := false
  pending := .none

/-- The port signals at reset; all zeros, the model's choice (log 13). -/
def Bus.reset : Bus where
  hport := 0
  bar := ⟨0, 0, 0, false⟩
  conf := ⟨0, 0, 0, false, 0, false, 0, 0, false, 0, 0, 0⟩
  flow := 0
  ok := false
  cnt := 0
  data := []

/-- The machine right after reset (rules R41, R250): no BAR valid, every flow VOID, every latch level X, no primitive
owned, no byte of `MEM` written, `FATAL = 0`, an empty trace, `REFUSED = 0`. -/
def State.reset : State where
  cfg := Config.atReset
  bars := []
  flows := []
  latches := []
  owners := []
  mem := []
  fatal := false
  fatalCause := .none
  fatalUnit := 0
  trace := []
  refused := false
  refusedWhy := none
  ports := []
  writes := []
  bus := Bus.reset
  script := []
  draws := 0

end Sys2Proof.Machine
end

