-- ==== Sys2Proof/Machine/Table.lean ====
section
/-! DEFINITION. Tables: a list of (number, value) pairs, the numbers rising; the one form of every numbered part of
the state and of `MEM`. -/

namespace Sys2Proof.Machine

variable {α : Type}

/-- The value listed for a number. -/
def tableFind : List (Nat × α) → Nat → Option α
  | [], _ => none
  | (k, v) :: rest, a => if a = k then some v else tableFind rest a

/-- List a value for a number, in the place of the value listed before. -/
def tablePut : List (Nat × α) → Nat → α → List (Nat × α)
  | [], a, v => [(a, v)]
  | (k, w) :: rest, a, v =>
    if a < k then (a, v) :: (k, w) :: rest
    else if a = k then (a, v) :: rest
    else (k, w) :: tablePut rest a v

/-- The canonical form: the numbers strictly rise, so no number is listed twice. -/
abbrev tableSorted (t : List (Nat × α)) : Prop := t.Pairwise fun x y => x.1 < y.1

/-- The canonical form of `MEM`. An unlisted address holds no byte that anything has written, so no entry can equal
what an unlisted address reads as, and rising addresses are the whole condition (log 3). -/
abbrev Memory.wf (m : List Host.Cell) : Prop := tableSorted m

end Sys2Proof.Machine
end

