-- ==== Sys2Proof/Machine/Flags.lean ====
section
/-! DEFINITION. The one-bit registers of 10_state.md section 5 (`TRIG`, `HELD`), the down-counters the steps test, the
test that names a flow as running between its suspension points, and the codes of the coded registers. The block
has no carry, overflow, zero or sign flag (rule R105). -/

namespace Sys2Proof.Machine

/-- `TRIG <- v` (rule R28). -/
def Flow.setTrig (fl : Flow) (v : Bool) : Flow := { fl with trig := v }

/-- `HELD <- v` (rule R29). -/
def Flow.setHeld (fl : Flow) (v : Bool) : Flow := { fl with held := v }

/-- `TIMER <- PERIOD` (rules R31, R143, R172). -/
def Flow.loadTimer (fl : Flow) : Flow := { fl with timer := fl.conf.period }

/-- The condition S1 waits for: `TIMER = 0 or TRIG = 1` (rule R161). -/
abbrev Flow.due (fl : Flow) : Prop := fl.timer = 0 ∨ fl.trig = true

/-- The cause S1 records (rule R161). -/
def Flow.waitCause (fl : Flow) : WaitCause := if fl.trig then .trigger else .period

/-- The format P code of an operation in flight; 0 is no port operation (rules R97, R101). A delay is none. -/
def PortOp.code : PortOp → PortCode
  | .lclr => 1#3
  | .lset => 2#3
  | .topen => 3#3
  | .twrite _ _ => 4#3
  | .tread _ => 5#3
  | .xacq _ => 6#3
  | .xrel => 7#3
  | .none | .delay _ => 0#3

/-- The flow has left a suspension point and has not suspended again: it is past S1, and not waiting for the grant
of S2 (rules R175, R177). -/
abbrev Flow.running (fl : Flow) : Prop :=
  fl.phase = .live ∧ fl.pc ≠ 1#4 ∧ ¬ (fl.pc = 2#4 ∧ fl.inflight.code = 6#3)

/-- One unit of the time base: `TIMER` counts down to 0 while `pc = 1`, the hold while a delay is in flight (rule
R197). -/
def Flow.tick (fl : Flow) : Flow :=
  { fl with
    timer := if fl.phase = .live ∧ fl.pc = 1#4 ∧ 0 < fl.timer then fl.timer - 1 else fl.timer
    hold := match fl.inflight with
      | .delay _ => fl.hold - 1
      | _ => fl.hold }

/-- The bytes S4 has read so far. -/
def Flow.gathered (fl : Flow) : List Byte :=
  match fl.work with
  | .gather got => got
  | _ => []

/-- The codes of `FATAL_CAUSE` (rule R211). -/
def Cause.code : Cause → BitVec 3
  | .none => 0#3
  | .initOpenFail => 1#3
  | .initMisaligned => 2#3
  | .ioShortWrite => 3#3
  | .ioShortRead => 4#3
  | .barIndexRange => 5#3

/-- The codes of `PHASE` (rule R26). -/
def Phase.code : Phase → BitVec 2
  | .void => 0#2
  | .constructed => 1#2
  | .live => 2#2

end Sys2Proof.Machine
end

