-- ==== Sys2Proof/Machine/Operands.lean ====
section
/-! DEFINITION. The operand forms: the split of a bit index into an address and a bit (rules R62, R99), the granule
of a BAR write (rules R70, R123), the word of the race test (rule R75), buffers as ranges of addresses, and the
single-bit change of a byte. -/

namespace Sys2Proof

/-- The parameter `BITMAP`: the place of bit index `i` in a buffer of `len` bytes, the bits of its bytes counted from
the least significant of the first (rule R7; log 19). By default it is `i` (rule R62, D1). -/
def Config.place (c : Config) (len i : Nat) : Nat :=
  match Machine.tableFind c.bitmap len with
  | some p => p.getD i i
  | none => i

/-- `addr(i)`: the byte that bit index `INDEX` selects, by default `BASE + (INDEX div 8)` (rules R62, R120). -/
def BarRecord.addr (r : BarRecord) (c : Config) : Nat := r.base + c.place r.len r.index / 8

/-- The bit it selects in that byte, by default `INDEX mod 8` (rules R62, R120). -/
def BarRecord.bit (r : BarRecord) (c : Config) : Nat := c.place r.len r.index % 8

/-- The value a read returns for a stored bit: `byte[k] XOR POL` (rule R122). -/
def BarRecord.toLogical (r : BarRecord) (raw : Bool) : Bool := xor raw r.pol

/-- The bit a write stores: `v XOR POL`, the polarity under the switch `BAR_WRITE_XOR` (rule R123 (1), D2). -/
def BarRecord.toRaw (r : BarRecord) (c : Config) (v : Bool) : Bool := xor v (c.barWriteXor && r.pol)

end Sys2Proof

namespace Sys2Proof.Machine

/-- `(byte AND NOT (1 << k)) OR (raw << k)`: bit `k` of the byte replaced (rules R70, R123). -/
def setBit (byte : Byte) (k : Nat) (raw : Bool) : Byte :=
  (byte &&& ~~~(1#8 <<< k)) ||| ((BitVec.ofBool raw).setWidth 8 <<< k)

/-- `g = a - (a mod GRANULE)` (rule R123). -/
def granuleBase (c : Config) (a : Nat) : Nat := a - a % c.granule

/-- The granule with one bit changed: bit `j = 8 * (a - g) + k` of the granule is bit `k` of its byte `a - g` (rules
R63, R123). -/
def granuleWith (old : List Byte) (off k : Nat) (raw : Bool) : List Byte :=
  old.set off (setBit (old.getD off 0#8) k raw)

/-- The number of the aligned word that holds byte `a`: the unit of the race test, whatever the granule (rule R75). -/
def wordOf (c : Config) (a : Nat) : Nat := a / c.wordBytes

/-- Two ranges of addresses share a byte; an empty range shares none, wherever it lies (log 25). -/
abbrev rangesMeet (p n q m : Nat) : Prop := 0 < n ∧ 0 < m ∧ p < q + m ∧ q < p + n

/-- The word numbered `w` and the `len` bytes at `ptr` share a byte. -/
abbrev wordMeets (c : Config) (w ptr len : Nat) : Prop := rangesMeet (w * c.wordBytes) c.wordBytes ptr len

end Sys2Proof.Machine

namespace Sys2Proof

open Machine

/-- The OUT buffer is present and not a multiple of the word, or the IN buffer is (rule R141). -/
abbrev FlowRecord.misaligned (c : Config) (r : FlowRecord) : Prop :=
  (r.op = true ∧ r.optr % c.wordBytes ≠ 0) ∨ (r.ip = true ∧ r.iptr % c.wordBytes ≠ 0)

/-- A present buffer of length 0 (rule R141). -/
abbrev FlowRecord.zeroLength (r : FlowRecord) : Prop :=
  (r.op = true ∧ r.olen = 0) ∨ (r.ip = true ∧ r.ilen = 0)

/-- A present buffer that passes the top of the address space (rule R141). -/
abbrev FlowRecord.wraps (c : Config) (r : FlowRecord) : Prop :=
  (r.op = true ∧ 2 ^ c.addrBits < r.optr + r.olen) ∨ (r.ip = true ∧ 2 ^ c.addrBits < r.iptr + r.ilen)

/-- The sharing rules between two flows (rule R142): one transport only under one common primitive, and never one
latch line. -/
abbrev FlowRecord.mayShare (r q : FlowRecord) : Prop :=
  (r.tport = q.tport → r.xp = true ∧ q.xp = true ∧ r.xid = q.xid) ∧ r.latch ≠ q.latch

/-- A present buffer of the flow shares a byte with the `n` bytes at `p`. -/
abbrev FlowRecord.uses (r : FlowRecord) (p n : Nat) : Prop :=
  (r.op = true ∧ rangesMeet p n r.optr r.olen) ∨ (r.ip = true ∧ rangesMeet p n r.iptr r.ilen)

end Sys2Proof
end

