-- ==== Sys2Proof/Machine/Ops.lean ====
section
/-! DEFINITION. The named operations the meanings are written with: reads and writes of the numbered state and of
`MEM`, the fatal halt and the restart, refusal, the race test, the guards under which an agent has a step, and the
port operations that complete at once. -/

namespace Sys2Proof.Machine

/-- What a transition answers. -/
abbrev Res := Host.Outcome State Fault Refusal

/-! Numbered state. -/

/-- `bar[b]` (rule R22). -/
def State.bar (s : State) (b : Nat) : Bar := (tableFind s.bars b).getD Bar.reset

/-- The address of the byte that BAR `b` targets (rules R62, R120). -/
def State.addrOf (s : State) (b : Nat) : Nat := (s.bar b).desc.addr s.cfg

/-- The number of the bit that BAR `b` targets in that byte (rules R62, R120). -/
def State.bitOf (s : State) (b : Nat) : Nat := (s.bar b).desc.bit s.cfg

/-- `flow[f]` (rules R24 to R33). -/
def State.flow (s : State) (f : Nat) : Flow := (tableFind s.flows f).getD Flow.reset

/-- `latch[l]` (rule R34). -/
def State.latch (s : State) (l : Nat) : Level := (tableFind s.latches l).getD .x

/-- `excl[x].OWNER` (rule R35). -/
def State.owner (s : State) (x : Nat) : Option Nat := (tableFind s.owners x).getD none

/-- Host command port `h` (rule R198). -/
def State.port (s : State) (h : Nat) : Port := (tableFind s.ports h).getD Port.reset

/-- `bar[b] <- v`. -/
def State.setBar (s : State) (b : Nat) (v : Bar) : State := { s with bars := tablePut s.bars b v }

/-- `flow[f] <- v`. -/
def State.setFlow (s : State) (f : Nat) (v : Flow) : State := { s with flows := tablePut s.flows f v }

/-- `latch[l] <- v`. -/
def State.setLatch (s : State) (l : Nat) (v : Level) : State := { s with latches := tablePut s.latches l v }

/-- `excl[x].OWNER <- v`. -/
def State.setOwner (s : State) (x : Nat) (v : Option Nat) : State := { s with owners := tablePut s.owners x v }

/-- Host command port `h` becomes `v`. -/
def State.setPort (s : State) (h : Nat) (v : Port) : State := { s with ports := tablePut s.ports h v }

/-- `emit e` (rules R11, R46). -/
def State.emit (s : State) (e : Event) : State := { s with trace := s.trace ++ [e] }

/-- `pc[f] <- k`, the only form of control transfer (rules R9, R27). -/
def State.goto (s : State) (f : Nat) (k : StepCode) : State := s.setFlow f { s.flow f with pc := k }

/-! Fatal halt, restart, refusal. -/

/-- The fatal halt, `raise Fatal(cause, unit)`: the three registers and the trace event, and nothing else (rule
R216). It saves no state and goes to no handler. -/
def State.raiseFatal (s : State) (c : Cause) (u : Nat) : State :=
  { s with fatal := true, fatalCause := c, fatalUnit := u, trace := s.trace ++ [.fatal c u] }

/-- There is no return from the fatal halt but a start of the process (rules R220, R250): every part of the block at
its reset value; the buffers, being the host's, are not touched (rule R251; log 14). -/
def State.restart (s : State) : State :=
  { State.reset with cfg := s.cfg, mem := s.mem, script := s.script, draws := s.draws }

/-- `refuse(reason)`: the mark `REFUSED`, and no effect (rules R47, R230; log 12). -/
def State.refuse (s : State) (r : Reason) : State := { s with refused := true, refusedWhy := some r }

/-- The transition that raises a fatal halt. -/
def raise (c : Cause) (u : Nat) (s : State) : Res := .next (s.raiseFatal c u)

/-- The transition that refuses. -/
def refuse (r : Reason) (s : State) : Res := .next (s.refuse r)

/-! `MEM`. -/

/-- `MEM[a]`: the byte last written, and where nothing has written one, a free value (rules R37, R254; log 3). -/
def State.byteAt (s : State) (a : Nat) : Byte := (tableFind s.mem a).getD (Config.freeByte a)

/-- `MemRead(a, 1)` (rule R10); there is no byte at or above `2 ^ ADDR_BITS` (rule R60). -/
def State.memRead (s : State) (a : Nat) : Option Byte :=
  if a < 2 ^ s.cfg.addrBits then some (s.byteAt a) else none

/-- `MemWrite(a, 1, v)` (rule R10). -/
def State.memWrite (s : State) (a : Nat) (v : Byte) : Option State :=
  if a < 2 ^ s.cfg.addrBits then some { s with mem := tablePut s.mem a v } else none

/-- `MemRead(a, n)`, lowest address first (rule R10). -/
def State.readBytes (s : State) (a : Nat) : Nat → Option (List Byte)
  | 0 => some []
  | n + 1 =>
    match s.memRead a, s.readBytes (a + 1) n with
    | some v, some vs => some (v :: vs)
    | _, _ => none

/-- `MemWrite(a, n, vs)` with `n` the length of `vs` (rule R10). -/
def State.writeBytes (s : State) (a : Nat) : List Byte → Option State
  | [] => some s
  | v :: vs =>
    match s.memWrite a v with
    | some t => t.writeBytes (a + 1) vs
    | none => none

/-! The race test (rules R75, R76 (c), R232; log 15). -/

/-- Host port `h` is between the two memory events of a BWRITE over word `w`. -/
def State.midWrite (s : State) (w h : Nat) : Bool :=
  match (s.port h).pending with
  | .bwrite b _ _ => wordOf s.cfg (s.addrOf b.toNat) == w
  | _ => false

/-- Some host port other than `h` is between the two memory events of a BWRITE over word `w`. -/
def State.othersMidWrite (s : State) (w h : Nat) : Bool :=
  (List.range s.cfg.nPorts).any fun g => g != h && s.midWrite w g

/-- Some host port is between the two memory events of a BWRITE over word `w`. -/
def State.anyMidWrite (s : State) (w : Nat) : Bool :=
  (List.range s.cfg.nPorts).any fun g => s.midWrite w g

/-- Some live flow is in step 8 and word `w` meets its IN buffer. -/
def State.sampling (s : State) (w : Nat) : Bool :=
  (List.range s.cfg.nFlows).any fun f =>
    let fl := s.flow f
    decide (fl.phase = .live ∧ fl.pc = 8#4 ∧ fl.conf.ip = true ∧ wordMeets s.cfg w fl.conf.iptr fl.conf.ilen)

/-- Another host context has written word `w`, no synchronisation has ordered that write before what context `h` does
now, and one of the two writes is a BWRITE (rule R75). -/
def State.unordered (s : State) (w h : Nat) (rmw : Bool) : Bool :=
  s.writes.any fun e => e.word == w && e.host != h && (e.rmw || rmw) && !e.seen.contains h

/-- A write event of host context `h` at byte `a`, of a BWRITE or not, meets another writer of its word, or comes after
one without synchronisation. -/
def State.hostRace (s : State) (h a : Nat) (rmw : Bool) : Bool :=
  s.othersMidWrite (wordOf s.cfg a) h || s.sampling (wordOf s.cfg a) || s.unordered (wordOf s.cfg a) h rmw

/-- The write of host context `h` to the word of byte `a` is noted, in the place of its earlier one of that kind; no
synchronisation has come after it. -/
def State.noteWrite (s : State) (h a : Nat) (rmw : Bool) : State :=
  { s with writes := ⟨wordOf s.cfg a, h, rmw, []⟩ ::
      s.writes.filter fun e => !(e.word == wordOf s.cfg a && e.host == h && e.rmw == rmw) }

/-- What host context `a` has done, or has seen done, is seen by host context `b`. -/
def Written.shown (a b : Nat) (e : Written) : Written :=
  if e.host = a ∨ e.seen.contains a = true then { e with seen := b :: e.seen } else e

/-- Host context `a` synchronises with host context `b` (rules R75, R260). -/
def State.synced (s : State) (a b : Nat) : State := { s with writes := s.writes.map (Written.shown a b) }

/-! Who has a step. -/

/-- No agent of the block has a step when `FATAL = 1` (rule R216). -/
def unlessHalted (s : State) (k : Res) : Res :=
  if s.fatal then .fault (.halted s.fatalCause s.fatalUnit) else k

/-- Host port `h` exists and is not in the middle of an operation (rule R95; log 9). -/
def State.portFree (s : State) (h : Nat) : Bool :=
  decide (h < s.cfg.nPorts) &&
    match (s.port h).pending with
    | .none => true
    | .bwrite _ _ _ => false
    | .finit f => decide ((s.flow f).inflight ≠ .topen)

/-- A host operation of one transition: it has a step when its port is free (rule R95). -/
def onPort (s : State) (k : Res) : Res :=
  unlessHalted s (if s.portFree s.bus.hport then k else .next s)

/-- No other flow of the same execution context is between its suspension points (rule R177). -/
def State.ctxFree (s : State) (f : Nat) : Bool :=
  (List.range s.cfg.nFlows).all fun g =>
    decide (g = f ∨ (s.flow g).conf.ctx ≠ (s.flow f).conf.ctx ∨ ¬ (s.flow g).running)

/-- A sequencer step: it has a transition when its flow is live, at that step, not waiting for a port operation
other than `w`, and its execution context is free (rules R33, R160, R177); otherwise nothing happens. -/
def onStep (code : StepCode) (w : PortOp) (s : State) (k : Nat → Flow → Res) : Res :=
  unlessHalted s
    (if (s.flow s.bus.flow).phase = .live ∧ (s.flow s.bus.flow).pc = code ∧
        ((s.flow s.bus.flow).inflight = .none ∨ (s.flow s.bus.flow).inflight = w) ∧ s.ctxFree s.bus.flow = true
     then k s.bus.flow (s.flow s.bus.flow)
     else .next s)

/-- A port operation: it has a transition when its flow has one in flight whose code it is (rule R33); otherwise
nothing happens. -/
def onAnswer (code : PortCode) (s : State) (k : Nat → Flow → Res) : Res :=
  unlessHalted s
    (if (s.flow s.bus.flow).inflight.code = code then k s.bus.flow (s.flow s.bus.flow) else .next s)

/-! Port operations that complete at once. -/

/-- LCLR on the latch line of flow `f`: `latch[l] <- 0`, `emit LCLR(l)` (rule R190). -/
def State.driveLow (s : State) (f : Nat) : State :=
  (s.setLatch (s.flow f).conf.latch .low).emit (.lclr f (s.flow f).conf.latch)

/-- LSET on the latch line of flow `f`: `latch[l] <- 1`, `emit LSET(l)` (rule R191). -/
def State.driveHigh (s : State) (f : Nat) : State :=
  (s.setLatch (s.flow f).conf.latch .high).emit (.lset f (s.flow f).conf.latch)

/-- XREL of the primitive of flow `f`: `excl[x].OWNER <- NONE`, `emit XREL(x, f)` (rule R196). -/
def State.release (s : State) (f : Nat) : State :=
  (s.setOwner (s.flow f).conf.xid none).emit (.xrel f (s.flow f).conf.xid)

/-- The operation in flight is answered (rule R33). -/
def State.answered (s : State) (f : Nat) : State := s.setFlow f { s.flow f with inflight := .none }

/-- A port operation is issued: it is in flight until the environment answers (rule R33). -/
def State.issue (s : State) (f : Nat) (p : PortOp) : State := s.setFlow f { s.flow f with inflight := p }

end Sys2Proof.Machine
end

