-- ==== Sys2Proof/Machine/BitRegister.lean ====
section
/-! DEFINITION. The Bit-Addressable Register family: BNEW, BREAD, BWRITE (40_bit_register.md). -/

namespace Sys2Proof.Machine

/-- BNEW (rule R121): the refusals first, in the pseudocode's order, then the range test of the index. -/
def execBnew (b : Id) (s : State) : Res :=
  onPort s
    (if s.cfg.nBars ≤ b.toNat ∨ (s.bar b.toNat).valid = true then refuse .badId s
     else if s.bus.bar.base % s.cfg.wordBytes ≠ 0 then refuse .barBaseUnaligned s
     else if 2 ^ s.cfg.addrBits < s.bus.bar.base + s.bus.bar.len then refuse .bufferWraps s
     else if ¬ s.bus.bar.index < 8 * s.bus.bar.len then raise .barIndexRange b.toNat s
     else .next (s.setBar b.toNat ⟨true, s.bus.bar⟩))

/-- BREAD (rule R122): one memory event; the bit goes to the host port as the answer. -/
def execBread (b : Id) (s : State) : Res :=
  onPort s
    (if s.cfg.nBars ≤ b.toNat ∨ (s.bar b.toNat).valid = false then refuse .badId s
     else
       match s.memRead (s.addrOf b.toNat) with
       | none => .fault (.noSuchAddress (s.addrOf b.toNat))
       | some byte =>
         .next (s.setPort s.bus.hport
           { s.port s.bus.hport with
             result := (s.bar b.toNat).desc.toLogical (byte.getLsbD (s.bitOf b.toNat)) }))

/-- The first memory event of BWRITE: `old <- MemRead(g, GRANULE)` (rules R70, R123). Meeting another writer of the
word, or coming unsynchronised after one, is a race (rules R75, R232). -/
def bwriteRead (b : Id) (v : Bool) (s : State) : Res :=
  if s.cfg.nBars ≤ b.toNat ∨ (s.bar b.toNat).valid = false then refuse .badId s
  else if s.hostRace s.bus.hport (s.addrOf b.toNat) true then .fault (.race (s.addrOf b.toNat))
  else
    match s.readBytes (granuleBase s.cfg (s.addrOf b.toNat)) s.cfg.granule with
    | none => .fault (.noSuchAddress (s.addrOf b.toNat))
    | some old => .next (s.setPort s.bus.hport { s.port s.bus.hport with pending := .bwrite b v old })

/-- The second memory event of BWRITE, always performed: `MemWrite(g, GRANULE, new)` (rules R70, R123). The
write is noted for the race test. -/
def bwriteWrite (b : Id) (v : Bool) (old : List Byte) (s : State) : Res :=
  if s.hostRace s.bus.hport (s.addrOf b.toNat) true then .fault (.race (s.addrOf b.toNat))
  else
    match ((s.setPort s.bus.hport { s.port s.bus.hport with pending := .none }).noteWrite s.bus.hport
        (s.addrOf b.toNat) true).writeBytes
        (granuleBase s.cfg (s.addrOf b.toNat))
        (granuleWith old (s.addrOf b.toNat - granuleBase s.cfg (s.addrOf b.toNat))
          (s.bitOf b.toNat) ((s.bar b.toNat).desc.toRaw s.cfg v)) with
    | none => .fault (.noSuchAddress (s.addrOf b.toNat))
    | some t => .next t

/-- BWRITE (rule R123), two transitions: on a free port the read of the granule, and on the port that waits with it
the write-back. -/
def execBwrite (b : Id) (v : Bool) (s : State) : Res :=
  unlessHalted s
    (if s.portFree s.bus.hport then bwriteRead b v s
     else
       match (s.port s.bus.hport).pending with
       | .bwrite b' v' old => if b' = b ∧ v' = v ∧ s.bus.hport < s.cfg.nPorts then bwriteWrite b v old s else .next s
       | _ => .next s)

end Sys2Proof.Machine
end

