-- ==== Sys2Proof/Machine/FlowControl.lean ====
section
/-! DEFINITION. The flow control family: FNEW, FINIT, FTRIG (41_flow_control.md). -/

namespace Sys2Proof.Machine

/-- The sharing rules hold for the record against every flow that is not VOID (rules R141, R142). -/
def State.sharingOk (s : State) (r : FlowRecord) : Bool :=
  (List.range s.cfg.nFlows).all fun g => decide ((s.flow g).phase = .void ∨ r.mayShare (s.flow g).conf)

/-- The flow FNEW constructs: the record, and every register FNEW writes (rule R141). `TIMER` keeps its value. -/
def Flow.construct (fl : Flow) (r : FlowRecord) : Flow :=
  { fl with
    conf := r, trig := false, held := false, opened := false, inflight := .none, pc := 0#4, phase := .constructed }

/-- FNEW (rule R141): the refusals first, in the pseudocode's order, then the alignment test. -/
def execFnew (f : Id) (s : State) : Res :=
  onPort s
    (if s.cfg.nFlows ≤ f.toNat ∨ (s.flow f.toNat).phase ≠ .void then refuse .badId s
     else if s.cfg.nTransports ≤ s.bus.conf.tport ∨ s.cfg.nLatches ≤ s.bus.conf.latch then refuse .badId s
     else if s.bus.conf.xp = true ∧ s.cfg.nExcl ≤ s.bus.conf.xid then refuse .badId s
     else if s.bus.conf.period ≤ 0 then refuse .badPeriod s
     else if s.bus.conf.zeroLength then refuse .zeroLength s
     else if s.bus.conf.wraps s.cfg then refuse .bufferWraps s
     else if s.sharingOk s.bus.conf = false then refuse .sharing s
     else if s.bus.conf.misaligned s.cfg then raise .initMisaligned f.toNat s
     else .next (s.setFlow f.toNat ((s.flow f.toNat).construct s.bus.conf)))

/-- FINIT (rule R143) up to its port operation: TOPEN is issued, and the host port waits for the answer. The rest is
`finitOpened`. A second FINIT while the answer is out is refused (log 16). -/
def execFinit (f : Id) (s : State) : Res :=
  onPort s
    (if s.cfg.nFlows ≤ f.toNat ∨ (s.flow f.toNat).phase ≠ .constructed ∨ (s.flow f.toNat).inflight ≠ .none then
       refuse .badPhase s
     else .next ((s.issue f.toNat .topen).setPort s.bus.hport
       { s.port s.bus.hport with pending := .finit f.toNat }))

/-- The flow FINIT makes live (rule R143). -/
def Flow.start (fl : Flow) : Flow :=
  { fl.loadTimer with opened := true, pc := 1#4, phase := .live }

/-- FINIT from the answer of TOPEN on (rule R143). -/
def finitOpened (f : Nat) (ok : Bool) (s : State) : Res :=
  if ok then .next (s.setFlow f (s.flow f).start) else raise .initOpenFail f s

/-- FTRIG (rule R145). -/
def execFtrig (f : Id) (s : State) : Res :=
  onPort s
    (if s.cfg.nFlows ≤ f.toNat ∨ (s.flow f.toNat).phase ≠ .live then refuse .badPhase s
     else .next (s.setFlow f.toNat ((s.flow f.toNat).setTrig true)))

end Sys2Proof.Machine
end

