-- ==== Sys2Proof/Machine/RefreshCycle.lean ====
section
/-! DEFINITION. The refresh cycle: the steps S1 to S12 (42_refresh_cycle.md). A step that waits leaves the state as it
is; a step that issues a blocking port operation goes on, in the transition of the answer, with the definition named
after it here (rule R33, D37). -/

namespace Sys2Proof.Machine

/-- S1.WAIT (rule R161). -/
def execS1Wait (s : State) : Res :=
  onStep 1#4 .none s fun f fl =>
    if fl.due then .next ((s.setFlow f { fl.setTrig false with pc := 2#4 }).emit (.wait f fl.waitCause)) else .next s

/-- S2.ACQ (rule R162): XACQ is issued when a primitive is configured, and `s2Granted` follows the grant. -/
def execS2Acq (s : State) : Res :=
  onStep 2#4 .none s fun f fl =>
    if fl.conf.xp then .next (s.issue f (.xacq fl.conf.xid)) else .next (s.goto f 3#4)

/-- S2 from the grant on: `HELD <- 1`, `pc <- 3` (rule R162). -/
def s2Granted (f : Nat) (s : State) : Res := .next (s.setFlow f { (s.flow f).setHeld true with pc := 3#4 })

/-- S3.LATCH_LOW (rule R163). -/
def execS3LatchLow (s : State) : Res :=
  onStep 3#4 .none s fun f _ => .next ((s.driveLow f).goto f 4#4)

/-- S4.SER_OUT (rules R77, R164): one byte read a transition, in address order, then TWRITE of them all is issued;
`s4Written` follows the answer. -/
def execS4SerOut (s : State) : Res :=
  onStep 4#4 .none s fun f fl =>
    if fl.conf.op then
      if fl.gathered.length < fl.conf.olen then
        match s.memRead (fl.conf.optr + fl.gathered.length) with
        | none => .fault (.noSuchAddress (fl.conf.optr + fl.gathered.length))
        | some v => .next (s.setFlow f { fl with work := .gather (fl.gathered ++ [v]) })
      else .next (s.setFlow f { fl with work := .idle, inflight := .twrite fl.gathered fl.conf.olen })
    else .next (s.goto f 5#4)

/-- S4 from the answer on: the count is compared with `OLEN` (rule R164). -/
def s4Written (f : Nat) (cnt : Int) (s : State) : Res :=
  if cnt ≠ (s.flow f).conf.olen then raise .ioShortWrite f s else .next (s.goto f 5#4)

/-- S5.FILLER (rule R165): TWRITE of the filler byte is issued when the output is absent and the input present;
`s5Written` follows the answer. -/
def execS5Filler (s : State) : Res :=
  onStep 5#4 .none s fun f fl =>
    if fl.conf.op = false ∧ fl.conf.ip = true then .next (s.issue f (.twrite [s.cfg.filler] 1))
    else .next (s.goto f 6#4)

/-- S5 from the answer on: the count is compared with 1, and the latch is driven low once more (rule R165). -/
def s5Written (f : Nat) (cnt : Int) (s : State) : Res :=
  if cnt ≠ 1 then raise .ioShortWrite f s else .next ((s.driveLow f).goto f 6#4)

/-- A hold of at least `n` units: it begins, lasts while the time base has not counted it down, and ends with its
event (rules R166, R169, R197). -/
def holdStep (k : Hold) (n : Nat) (after : StepCode) (s : State) (f : Nat) (fl : Flow) : Res :=
  if fl.inflight = .none then .next (s.setFlow f { fl with inflight := .delay k, hold := n })
  else if fl.hold = 0 then .next ((s.setFlow f { fl with inflight := .none, pc := after }).emit (.delay f k))
  else .next s

/-- S6.SETTLE_PRE (rule R166). -/
def execS6SettlePre (s : State) : Res :=
  onStep 6#4 (.delay .pre) s (holdStep .pre s.cfg.tSettlePre 7#4 s)

/-- S7.LATCH_HIGH (rule R167). -/
def execS7LatchHigh (s : State) : Res :=
  onStep 7#4 .none s fun f _ => .next ((s.driveHigh f).goto f 8#4)

/-- S8.DESER_IN (rules R77, R168): TREAD is issued; after an answer with the right count, `s8Answered`, one byte is
stored a transition, in address order. A store into a word that a BWRITE is in the middle of is a race (rule R76
(c)). -/
def execS8DeserIn (s : State) : Res :=
  onStep 8#4 .none s fun f fl =>
    if fl.conf.ip then
      match fl.work with
      | .store k (v :: rest) =>
        if s.anyMidWrite (wordOf s.cfg (fl.conf.iptr + k)) then .fault (.race (fl.conf.iptr + k))
        else
          match (s.setFlow f { fl with work := .store (k + 1) rest }).memWrite (fl.conf.iptr + k) v with
          | none => .fault (.noSuchAddress (fl.conf.iptr + k))
          | some t => .next t
      | .store _ [] => .next (s.setFlow f { fl with work := .idle, pc := 9#4 })
      | _ => .next (s.issue f (.tread fl.conf.ilen))
    else .next (s.goto f 9#4)

/-- S8 from the answer on: the count is compared with `ILEN` before any byte is stored (rule R168). -/
def s8Answered (f : Nat) (cnt : Int) (data : List Byte) (s : State) : Res :=
  if cnt ≠ (s.flow f).conf.ilen then raise .ioShortRead f s
  else .next (s.setFlow f { s.flow f with work := .store 0 data })

/-- S9.SETTLE_POST (rule R169). -/
def execS9SettlePost (s : State) : Res :=
  onStep 9#4 (.delay .post) s (holdStep .post s.cfg.tSettlePost 10#4 s)

/-- S10.LATCH_LOW (rule R170). -/
def execS10LatchLow (s : State) : Res :=
  onStep 10#4 .none s fun f _ => .next ((s.driveLow f).goto f 11#4)

/-- S11.REL (rule R171). -/
def execS11Rel (s : State) : Res :=
  onStep 11#4 .none s fun f fl =>
    if fl.held then .next ((s.release f).setFlow f { fl.setHeld false with pc := 12#4 }) else .next (s.goto f 12#4)

/-- S12.LOOP (rule R172). -/
def execS12Loop (s : State) : Res :=
  onStep 12#4 .none s fun f fl => .next (s.setFlow f { fl.loadTimer with pc := 1#4 })

end Sys2Proof.Machine
end

