-- ==== Sys2Proof/Machine/PortOperations.lean ====
section
/-! DEFINITION. The port operations (43_port_operations.md). The answer of a blocking one is taken here, and the step
or FINIT that issued it goes on in the same transition (rule R33, D37). -/

namespace Sys2Proof.Machine

/-- LCLR presented on the latch port of its flow (rule R190). -/
def execLclr (s : State) : Res :=
  onAnswer 1#3 s fun f _ => .next ((s.driveLow f).answered f)

/-- LSET presented on the latch port of its flow (rule R191). -/
def execLset (s : State) : Res :=
  onAnswer 2#3 s fun f _ => .next ((s.driveHigh f).answered f)

/-- TOPEN answered `ok` (rule R192); FINIT goes on. -/
def execTopen (s : State) : Res :=
  onAnswer 3#3 s fun f fl =>
    let t := (s.answered f).emit (.topen f fl.conf.tport s.bus.ok)
    if fl.phase = .constructed then finitOpened f s.bus.ok t else .next t

/-- TWRITE answered `cnt` (rule R193); S4 or S5 goes on. -/
def execTwrite (s : State) : Res :=
  onAnswer 4#3 s fun f fl =>
    match fl.inflight with
    | .twrite bytes _ =>
      let t := (s.answered f).emit (.twrite f fl.conf.tport bytes s.bus.cnt)
      if fl.pc = 4#4 then s4Written f s.bus.cnt t
      else if fl.pc = 5#4 then s5Written f s.bus.cnt t
      else .next t
    | _ => .next s

/-- TREAD answered `(cnt, data)` (rule R194); S8 goes on. An answer with `cnt = n` and not `n` bytes is none the
transport can give, and nothing happens. -/
def execTread (s : State) : Res :=
  onAnswer 5#3 s fun f fl =>
    match fl.inflight with
    | .tread n =>
      if s.bus.cnt = n ∧ s.bus.data.length ≠ n then .next s
      else
        let t := (s.answered f).emit (.tread f fl.conf.tport n s.bus.cnt s.bus.data)
        if fl.pc = 8#4 then s8Answered f s.bus.cnt s.bus.data t else .next t
    | _ => .next s

/-- XACQ (rule R195): granted when nobody owns the primitive, in one transition with what S2 does on return (rule
R162); otherwise the flow waits. The flow goes on only when its execution context is free (rule R177). -/
def execXacq (s : State) : Res :=
  onAnswer 6#3 s fun f fl =>
    match fl.inflight with
    | .xacq x =>
      if s.owner x = none ∧ s.ctxFree f = true then
        let t := ((s.answered f).setOwner x (some f)).emit (.xacq f x)
        if fl.pc = 2#4 then s2Granted f t else .next t
      else .next s
    | _ => .next s

/-- XREL presented on the exclusion port by its flow (rule R196). -/
def execXrel (s : State) : Res :=
  onAnswer 7#3 s fun f _ => .next ((s.release f).answered f)

end Sys2Proof.Machine
end

