-- ==== Sys2Proof/Machine/Dispatch.lean ====
section
/-! DEFINITION. The meaning of every operation, one arm each. -/

namespace Sys2Proof.Machine

def exec (i : Instr) (s : State) : Host.Outcome State Fault Refusal :=
  match i with
  | .bnew b => Sys2Proof.Machine.execBnew b s
  | .bread b => Sys2Proof.Machine.execBread b s
  | .bwrite b v => Sys2Proof.Machine.execBwrite b v s
  | .fnew f => Sys2Proof.Machine.execFnew f s
  | .finit f => Sys2Proof.Machine.execFinit f s
  | .ftrig f => Sys2Proof.Machine.execFtrig f s
  | .s1Wait => Sys2Proof.Machine.execS1Wait s
  | .s2Acq => Sys2Proof.Machine.execS2Acq s
  | .s3LatchLow => Sys2Proof.Machine.execS3LatchLow s
  | .s4SerOut => Sys2Proof.Machine.execS4SerOut s
  | .s5Filler => Sys2Proof.Machine.execS5Filler s
  | .s6SettlePre => Sys2Proof.Machine.execS6SettlePre s
  | .s7LatchHigh => Sys2Proof.Machine.execS7LatchHigh s
  | .s8DeserIn => Sys2Proof.Machine.execS8DeserIn s
  | .s9SettlePost => Sys2Proof.Machine.execS9SettlePost s
  | .s10LatchLow => Sys2Proof.Machine.execS10LatchLow s
  | .s11Rel => Sys2Proof.Machine.execS11Rel s
  | .s12Loop => Sys2Proof.Machine.execS12Loop s
  | .lclr => Sys2Proof.Machine.execLclr s
  | .lset => Sys2Proof.Machine.execLset s
  | .topen => Sys2Proof.Machine.execTopen s
  | .twrite => Sys2Proof.Machine.execTwrite s
  | .tread => Sys2Proof.Machine.execTread s
  | .xacq => Sys2Proof.Machine.execXacq s
  | .xrel => Sys2Proof.Machine.execXrel s

end Sys2Proof.Machine
end

