-- ==== Sys2Proof/Machine/Fetch.lean ====
section
/-! DEFINITION. What happens next (rules R20, R200): the next input, and the operation it selects or the event it is.
There is no instruction memory (rule R80): a command word comes over a host port, a step code from `pc[f]`, a port
code from the operation in flight. -/

namespace Sys2Proof.Machine

/-- What an input selects: an operation, with the state it runs in, or an event that is no operation. -/
inductive Fetched where
  | run (i : Instr) (s : State)
  | done (o : Res)

/-- The next input: the first that is written down, and where none is, a free choice (log 4). -/
def nextInput (s : State) : Input :=
  match s.script with
  | x :: _ => x
  | [] => Config.freeInput s.draws

/-- The state with its next input taken. -/
def takeInput (s : State) : State :=
  match s.script with
  | _ :: rest => { s with script := rest }
  | [] => { s with draws := s.draws + 1 }

/-- A command word on host port `h` (rules R95, R100, R103). The block accepts it when the port is free; an illegal
word is refused. -/
def fetchHost (h : Nat) (w : HostWord) (bar : BarRecord) (conf : FlowRecord) (s : State) : Fetched :=
  if s.portFree h = true ∧ bar.fits s.cfg ∧ conf.fits s.cfg then
    match decodeH w with
    | .ok i => .run i { s with bus := { s.bus with hport := h, bar := bar, conf := conf } }
    | .error _ => .done (refuse .illegalWord s)
  else .done (.next s)

/-- The operation in progress on host port `h` goes on (rule R70). -/
def fetchResume (h : Nat) (s : State) : Fetched :=
  match (s.port h).pending with
  | .bwrite b v _ => .run (.bwrite b v) { s with bus := { s.bus with hport := h } }
  | _ => .done (.next s)

/-- The sequencer of flow `f` performs the step `pc[f]` selects (rules R27, R96); it has none unless the flow is
live. -/
def fetchStep (f : Nat) (s : State) : Fetched :=
  if f < s.cfg.nFlows ∧ (s.flow f).phase = .live then
    match decodeS (s.flow f).pc with
    | .ok i => .run i { s with bus := { s.bus with flow := f } }
    | .error _ => .done (.fault (.noSuchStep f))
  else .done (.next s)

/-- The port operation in flight of flow `f` is answered (rules R33, R97); with none in flight nothing happens. -/
def fetchAnswer (f : Nat) (ok : Bool) (cnt : Int) (data : List Byte) (s : State) : Fetched :=
  if f < s.cfg.nFlows then
    match decodeP (s.flow f).inflight.code with
    | .ok i => .run i { s with bus := { s.bus with flow := f, ok := ok, cnt := cnt, data := data } }
    | .error _ => .done (.next s)
  else .done (.next s)

/-- One unit of the time base (rule R197). -/
def tickFlow (f : Nat) (s : State) : Res :=
  if f < s.cfg.nFlows then .next (s.setFlow f (s.flow f).tick) else .next s

/-- A direct write of `MEM` by host context `h`, which has no step while its port is in the middle of an operation
(rules R37, R200); meeting another writer of the word, or coming unsynchronised after a BWRITE of another context, is a
race (rules R75, R232). The write is noted for the race test. -/
def ownerWrite (h a : Nat) (v : Byte) (s : State) : Res :=
  if s.portFree h then
    if s.hostRace h a false then .fault (.race a)
    else
      match (s.noteWrite h a false).memWrite a v with
      | none => .fault (.noSuchAddress a)
      | some t => .next t
  else .next s

/-- A valid BAR or a flow that is not VOID references one of the `n` bytes at `p` (rule R82). -/
def State.referenced (s : State) (p n : Nat) : Bool :=
  ((List.range s.cfg.nBars).any fun b =>
    decide ((s.bar b).valid = true ∧ rangesMeet p n (s.bar b).desc.base (s.bar b).desc.len)) ||
  ((List.range s.cfg.nFlows).any fun f =>
    decide ((s.flow f).phase ≠ .void ∧ (s.flow f).conf.uses p n))

/-- The host frees or moves the `n` bytes at `p`: refused when something references them (rules R82, R230), and
otherwise nothing of the block. -/
def bufferGone (p n : Nat) (s : State) : Res :=
  if s.referenced p n then refuse .bufferGone s else .next s

/-- What an input selects, the input being taken. -/
def serve (x : Input) (s : State) : Fetched :=
  match x with
  | .restart => .done (.next s.restart)
  | .host h w bar conf => if s.fatal then .done (.fault (.halted s.fatalCause s.fatalUnit)) else fetchHost h w bar conf s
  | .resume h => if s.fatal then .done (.fault (.halted s.fatalCause s.fatalUnit)) else fetchResume h s
  | .sequencer f => if s.fatal then .done (.fault (.halted s.fatalCause s.fatalUnit)) else fetchStep f s
  | .answer f ok cnt data =>
    if s.fatal then .done (.fault (.halted s.fatalCause s.fatalUnit)) else fetchAnswer f ok cnt data s
  | .tick f => .done (unlessHalted s (tickFlow f s))
  | .ownerWrite h a v => .done (unlessHalted s (ownerWrite h a v s))
  | .bufferGone p n => .done (unlessHalted s (bufferGone p n s))
  | .sync a b => .done (unlessHalted s (.next (s.synced a b)))

/-- What the next transition is. -/
def fetch (s : State) : Fetched := serve (nextInput s) (takeInput s)

/-- A BNEW record that the machine of `State.reset` accepts, for a word placed by `State.withFetchWord`. -/
def placedBar : BarRecord := ⟨0, 1, 0, false⟩

/-- An FNEW record that the machine of `State.reset` accepts, for a word placed by `State.withFetchWord`. -/
def placedConf : FlowRecord := ⟨0, 0, 0, false, 0, false, 0, 0, false, 0, 0, 1⟩

/-- A flow whose sequencer performs step `c` next (log 6). -/
def Flow.placeStep (fl : Flow) (c : StepCode) : Flow :=
  { fl with phase := .live, pc := c, inflight := .none, work := .idle }

/-- A flow that has the port operation of code `c` in flight (log 6). -/
def Flow.placePort (fl : Flow) (c : PortCode) : Flow :=
  if c = 1#3 then { fl with inflight := .lclr }
  else if c = 2#3 then { fl with inflight := .lset }
  else if c = 3#3 then { fl with phase := .constructed, inflight := .topen }
  else if c = 4#3 then
    { fl with conf := { fl.conf with op := false, ip := true }, phase := .live, pc := 5#4, inflight := .twrite [0#8] 1 }
  else if c = 5#3 then
    { fl with conf := { fl.conf with ip := true, ilen := 1 }, phase := .live, pc := 8#4, inflight := .tread 1 }
  else if c = 6#3 then
    { fl with conf := { fl.conf with xp := true }, phase := .live, pc := 2#4, inflight := .xacq fl.conf.xid }
  else if c = 7#3 then { fl with inflight := .xrel }
  else { fl with inflight := .none }

/-- The state with a code word placed where the next transition finds it: a command word with its records on host
port 0, a step code in `pc[0]` of a live flow, a port code as the operation flow 0 has in flight, answered at once
(log 6). -/
def placeCode (c : Code) (s : State) : State :=
  match c with
  | .h w => { s with script := .host 0 w placedBar placedConf :: s.script }
  | .s k => { s.setFlow 0 ((s.flow 0).placeStep k) with script := .sequencer 0 :: s.script }
  | .p k => { s.setFlow 0 ((s.flow 0).placePort k) with script := .answer 0 true 1 [0#8] :: s.script }

end Sys2Proof.Machine
end

