-- ==== Sys2Proof/Machine/Step.lean ====
section
/-! DEFINITION. One transition of the block, and a word placed where the next transition finds it. -/

namespace Sys2Proof.Machine

/-- One transition: the operation the next input selects, or the event it is. -/
def step (s : State) : Host.Outcome State Fault Refusal :=
  match fetch s with
  | .run i t => exec i t
  | .done o => o

/-- `s` with the instruction whose `nbits` bits are `w` placed so that the next transition runs it (log 6). -/
def State.withFetchWord (s : State) (nbits w : Nat) : State :=
  match tableCode nbits w with
  | some c => placeCode c s
  | none => s

end Sys2Proof.Machine
end

