-- ==== Sys2Proof/Safety.lean ====
section
/-! DEFINITION. The words the statements are written in: the premises under which an agent acts, what a transition may
touch and what it keeps (frames), the invariant of every reachable state, the kinds of events, and the inputs and
events of one whole refresh cycle. -/

namespace Sys2Proof.Machine

/-! Premises. -/

/-- `FATAL = 0` and `REFUSED = 0`, the premise of every claim (rules R47, R230). -/
abbrev State.clean (s : State) : Prop := s.fatal = false ∧ s.refused = false

/-- The host port addressed accepts an operation. -/
abbrev State.portReady (s : State) : Prop := s.clean ∧ s.portFree s.bus.hport = true

/-- The flow whose turn it is. -/
def State.actor (s : State) : Flow := s.flow s.bus.flow

/-- The sequencer whose turn it is performs the step of this code next, with `w` in flight. -/
abbrev State.stepReady (s : State) (code : StepCode) (w : PortOp) : Prop :=
  s.clean ∧ s.actor.phase = .live ∧ s.actor.pc = code ∧ s.actor.inflight = w ∧ s.ctxFree s.bus.flow = true

/-- Host port addressed: BAR `b` exists (rule R100). -/
abbrev State.hasBar (s : State) (b : Id) : Prop := b.toNat < s.cfg.nBars ∧ (s.bar b.toNat).valid = true

/-- The bytes of the granule of address `a` (rule R70). -/
def State.granuleAt (s : State) (a : Nat) : List Byte :=
  (List.range s.cfg.granule).map fun i => s.byteAt (granuleBase s.cfg a + i)

/-- The granule of address `a` lies in the address space. -/
abbrev State.granuleExists (s : State) (a : Nat) : Prop := granuleBase s.cfg a + s.cfg.granule ≤ 2 ^ s.cfg.addrBits

/-! Frames. -/

/-- What a transition may touch: the numbers whose entries it may change, the addresses it may write, the events it
appends, whether it halts the block or refuses, and what the noted writes become. -/
structure Touch where
  bars : List Nat := []
  flows : List Nat := []
  latches : List Nat := []
  owners : List Nat := []
  ports : List Nat := []
  bytes : List Nat := []
  events : List Event := []
  halt : Option (Cause × Nat) := none
  refusal : Option Reason := none
  writes : Option (List Written) := none

/-- `t` is `s` but for what `w` names: everything else that the spec or the model puts into the state is the same. -/
structure Kept (w : Touch) (s t : State) : Prop where
  cfg : t.cfg = s.cfg
  bar : ∀ b, b ∉ w.bars → t.bar b = s.bar b
  flow : ∀ f, f ∉ w.flows → t.flow f = s.flow f
  latch : ∀ l, l ∉ w.latches → t.latch l = s.latch l
  owner : ∀ x, x ∉ w.owners → t.owner x = s.owner x
  port : ∀ h, h ∉ w.ports → t.port h = s.port h
  byte : ∀ a, a ∉ w.bytes → t.byteAt a = s.byteAt a
  trace : t.trace = s.trace ++ w.events
  halt : (t.fatal, t.fatalCause, t.fatalUnit) =
    (w.halt.elim (s.fatal, s.fatalCause, s.fatalUnit) fun cu => (true, cu.1, cu.2))
  refusal : (t.refused, t.refusedWhy) = (w.refusal.elim (s.refused, s.refusedWhy) fun r => (true, some r))
  writes : t.writes = w.writes.getD s.writes
  bus : t.bus = s.bus
  script : t.script = s.script
  draws : t.draws = s.draws

/-! The invariant. -/

/-- The BAR invariant (rule R23), with the checks of BNEW (rule R121). -/
abbrev BarOk (c : Config) (r : BarRecord) : Prop :=
  r.index < 8 * r.len ∧ r.base % c.wordBytes = 0 ∧ r.base + r.len ≤ 2 ^ c.addrBits

/-- The flow configuration invariants (rule R25), with the checks of FNEW (rule R141). -/
abbrev ConfOk (c : Config) (r : FlowRecord) : Prop :=
  r.tport < c.nTransports ∧ r.latch < c.nLatches ∧ (r.xp = true → r.xid < c.nExcl) ∧ 0 < r.period ∧
  (r.op = true → 1 ≤ r.olen ∧ r.optr + r.olen ≤ 2 ^ c.addrBits ∧ r.optr % c.wordBytes = 0) ∧
  (r.ip = true → 1 ≤ r.ilen ∧ r.iptr + r.ilen ≤ 2 ^ c.addrBits ∧ r.iptr % c.wordBytes = 0)

/-- Steps 3 to 11, between the grant of S2 and the release of S11 (rules R29, R178). -/
abbrev Flow.inBusSteps (fl : Flow) : Prop := fl.phase = .live ∧ 3#4 ≤ fl.pc ∧ fl.pc ≤ 11#4

/-- What a flow may have in flight, by its phase and step (rule R33). -/
def InflightOk (c : Config) (fl : Flow) : Prop :=
  match fl.inflight with
  | .none => True
  | .topen => fl.phase = .constructed
  | .twrite bytes n => bytes.length = n ∧ fl.phase = .live ∧
      ((fl.pc = 4#4 ∧ fl.conf.op = true ∧ n = fl.conf.olen) ∨
        (fl.pc = 5#4 ∧ fl.conf.op = false ∧ fl.conf.ip = true ∧ bytes = [c.filler]))
  | .tread n => fl.phase = .live ∧ fl.pc = 8#4 ∧ fl.conf.ip = true ∧ n = fl.conf.ilen
  | .xacq x => fl.phase = .live ∧ fl.pc = 2#4 ∧ fl.conf.xp = true ∧ x = fl.conf.xid
  | .delay .pre => fl.phase = .live ∧ fl.pc = 6#4
  | .delay .post => fl.phase = .live ∧ fl.pc = 9#4
  | .lclr | .lset | .xrel => False

/-- Where a flow may be inside S4 or S8 (rule R77). -/
def WorkOk (fl : Flow) : Prop :=
  match fl.work with
  | .idle => True
  | .gather got => fl.phase = .live ∧ fl.pc = 4#4 ∧ fl.conf.op = true ∧ fl.inflight = .none ∧
      got.length ≤ fl.conf.olen
  | .store k rest => fl.phase = .live ∧ fl.pc = 8#4 ∧ fl.conf.ip = true ∧ fl.inflight = .none ∧
      k + rest.length = fl.conf.ilen

/-- The registers of one flow agree with its phase and step (rules R26, R27, R29, R31, R32, R33). -/
structure FlowOk (c : Config) (fl : Flow) : Prop where
  stopped : fl.phase ≠ .live → fl.pc = 0#4 ∧ fl.trig = false ∧ fl.held = false
  stepping : fl.phase = .live → 1#4 ≤ fl.pc ∧ fl.pc ≤ 12#4 ∧ 0 ≤ fl.timer
  opened : fl.opened = true ↔ fl.phase = .live
  held : fl.held = true ↔ fl.conf.xp = true ∧ fl.inBusSteps
  inflight : InflightOk c fl
  work : WorkOk fl

/-- The latch line of a live flow is low in steps 4 to 7, high in steps 8 to 10, low in steps 11 and 12, and never
high in steps 1 to 3 (rules R173, R214, R215). -/
def LatchOk (fl : Flow) (v : Level) : Prop :=
  (4#4 ≤ fl.pc → fl.pc ≤ 7#4 → v = .low) ∧ (8#4 ≤ fl.pc → fl.pc ≤ 10#4 → v = .high) ∧
  (11#4 ≤ fl.pc → v = .low) ∧ (fl.pc ≤ 3#4 → v ≠ .high)

/-- The invariant of every reachable state. -/
structure Inv (s : State) : Prop where
  /-- The parameters meet their constraints (rule R7). -/
  cfg : s.cfg.wf
  /-- `MEM` is in canonical form. -/
  mem : Memory.wf s.mem
  /-- Rule R23. -/
  bars : ∀ b, (s.bar b).valid = true → b < s.cfg.nBars ∧ BarOk s.cfg (s.bar b).desc
  /-- Rule R25. -/
  confs : ∀ f, (s.flow f).phase ≠ .void → f < s.cfg.nFlows ∧ ConfOk s.cfg (s.flow f).conf
  /-- Rule R142. -/
  sharing : ∀ f g, f ≠ g → (s.flow f).phase ≠ .void → (s.flow g).phase ≠ .void →
    (s.flow f).conf.mayShare (s.flow g).conf
  /-- Rules R26 to R33. -/
  flows : ∀ f, FlowOk s.cfg (s.flow f)
  /-- Rule R29: a primitive's owner is the flow that holds it. -/
  owners : ∀ x f, s.owner x = some f ↔ (s.flow f).held = true ∧ (s.flow f).conf.xid = x
  /-- Rule R173. -/
  latches : ∀ f, (s.flow f).phase = .live → LatchOk (s.flow f) (s.latch (s.flow f).conf.latch)
  /-- Rules R34, R255: a line whose level is not X has been driven, so it is the line of a live flow. -/
  driven : ∀ l, s.latch l ≠ .x → ∃ f, (s.flow f).phase = .live ∧ (s.flow f).conf.latch = l
  /-- Rule R177. -/
  contexts : ∀ f g, f ≠ g → (s.flow f).running → (s.flow g).running → (s.flow f).conf.ctx ≠ (s.flow g).conf.ctx
  /-- Rules R30, R211: a cause is recorded exactly when the block has halted. -/
  halt : s.fatal = false ↔ s.fatalCause = .none
  /-- Rules R70, R75: a write-back in progress is of a valid BAR, on an existing port, and the bytes it read are the
  bytes still there. -/
  writers : ∀ h b v old, (s.port h).pending = .bwrite b v old →
    h < s.cfg.nPorts ∧ s.hasBar b ∧ old = s.granuleAt (s.addrOf b.toNat)
  /-- Rule R75: no two write-backs in progress are over one word. -/
  apart : ∀ h g b c v u old new, h ≠ g → (s.port h).pending = .bwrite b v old → (s.port g).pending = .bwrite c u new →
    wordOf s.cfg (s.addrOf b.toNat) ≠ wordOf s.cfg (s.addrOf c.toNat)

/-! Events. -/

/-- The flow an event of the latch lines or of a transport's data belongs to (rules R178, R264). -/
def Event.busFlow : Event → Option Nat
  | .lclr f _ | .lset f _ | .twrite f _ _ _ | .tread f _ _ _ _ => some f
  | .topen _ _ _ | .xacq _ _ | .xrel _ _ | .delay _ _ | .wait _ _ | .fatal _ _ => none

/-! Runs without end, and the four fairness assumptions of rule R199 (D29; log 27). -/

/-- The state with `x` as its one input to come. -/
def State.offered (s : State) (x : Input) : State := { s with script := [x] }

/-- A run without end: from each state the input `x n`, whatever agent's it is, leads to the next. No input is a restart
of the process, and every state meets the invariant (which one need only know of the first). -/
structure Run (x : Nat → Input) (r : Nat → State) : Prop where
  step : ∀ n, Machine.step ((r n).offered (x n)) = .next (r (n + 1))
  noRestart : ∀ n, x n ≠ .restart
  inv : ∀ n, Inv (r n)

/-- Sooner or later, from moment `n` on. -/
abbrev Later (n : Nat) (p : Nat → Prop) : Prop := ∃ m, n ≤ m ∧ p m

/-- Assumption (a): the period wait of a live flow eventually ends. -/
def FairPeriods (r : Nat → State) : Prop :=
  ∀ f n, ((r n).flow f).phase = .live → ((r n).flow f).pc = 1#4 →
    Later n fun m => ((r m).flow f).due ∨ ((r m).flow f).pc ≠ 1#4

/-- Assumption (b): every hold of step 6 or 9 eventually ends. -/
def FairHolds (r : Nat → State) : Prop :=
  ∀ f k n, ((r n).flow f).inflight = .delay k →
    Later n fun m => ((r m).flow f).hold = 0 ∨ ((r m).flow f).inflight ≠ .delay k

/-- The operations whose answer comes from a transport: TOPEN, TWRITE, TREAD. -/
def PortOp.ofTransport : PortOp → Prop
  | .topen | .twrite _ _ | .tread _ => True
  | .none | .xacq _ | .delay _ | .lclr | .lset | .xrel => False

/-- Assumption (c): every TOPEN, TWRITE and TREAD is eventually answered. -/
def FairAnswers (r : Nat → State) : Prop :=
  ∀ f n, ((r n).flow f).inflight.ofTransport → Later n fun m => ((r m).flow f).inflight = .none

/-- Assumption (d): an XACQ on a primitive that is free again and again is eventually granted. -/
def FairGrants (r : Nat → State) : Prop :=
  ∀ f x n, ((r n).flow f).inflight = .xacq x → (∀ k, Later k fun m => (r m).owner x = none) →
    Later n fun m => ((r m).flow f).inflight = .none

/-- Every sequencer goes on getting turns: an agent of the block that has a step is not passed over for ever (rule R20;
log 27). What it can do in a turn is another matter. -/
def TurnsForAll (x : Nat → Input) (r : Nat → State) : Prop :=
  ∀ f n, f < (r n).cfg.nFlows → Later n fun m => x m = .sequencer f

/-- Each flow on an execution context of its own, the default of D24. -/
def OwnContexts (r : Nat → State) : Prop :=
  ∀ n f g, f ≠ g → ((r n).flow f).phase = .live → ((r n).flow g).phase = .live →
    ((r n).flow f).conf.ctx ≠ ((r n).flow g).conf.ctx

/-! One cycle (rules R174, R179). -/

/-- `n` transitions of the sequencer of flow `f`. -/
def turns (f n : Nat) : List Input := List.replicate n (Input.sequencer f)

/-- A hold: it begins, `n` units of time pass, it ends (rules R166, R169). -/
def holdInputs (f n : Nat) : List Input := List.append (turns f 1) (List.append (List.replicate n (Input.tick f)) (turns f 1))

/-- S1 and S2, with the grant when a primitive is configured (rules R161, R162). -/
def acquireInputs (f : Nat) (r : FlowRecord) : List Input :=
  if r.xp then List.append (turns f 2) [Input.answer f true 0 []] else turns f 2

/-- S4, with the answer of the output write (rule R164). -/
def serializeInputs (f : Nat) (r : FlowRecord) : List Input :=
  if r.op then List.append (turns f (r.olen + 1)) [Input.answer f true r.olen []] else turns f 1

/-- S5, with the answer of the filler write (rule R165). -/
def fillerInputs (f : Nat) (r : FlowRecord) : List Input :=
  if r.op = false ∧ r.ip = true then List.append (turns f 1) [Input.answer f true 1 []] else turns f 1

/-- S8, with the answer of the read (rule R168). -/
def deserializeInputs (f : Nat) (r : FlowRecord) (data : List Byte) : List Input :=
  if r.ip then List.append (turns f 1) (Input.answer f true r.ilen data :: turns f (r.ilen + 1)) else turns f 1

/-- The inputs of one whole cycle of flow `f` that nobody else steps into and in which the environment answers
rightly: the sequencer's transitions, the grant, the counts, the sampled bytes and the time of the two holds. -/
def cycleInputs (c : Config) (f : Nat) (r : FlowRecord) (data : List Byte) : List Input :=
  List.flatten
    [acquireInputs f r, turns f 1, serializeInputs f r, fillerInputs f r, holdInputs f c.tSettlePre, turns f 1,
      deserializeInputs f r data, holdInputs f c.tSettlePost, turns f 3]

/-- The transport writes of one cycle: the output buffer, or the filler byte with its second latch-low (rules R164,
R165). -/
def writeEvents (c : Config) (f : Nat) (r : FlowRecord) (out : List Byte) : List Event :=
  if r.op then [Event.twrite f r.tport out r.olen]
  else if r.ip then [Event.twrite f r.tport [c.filler] 1, Event.lclr f r.latch]
  else []

/-- The events of one fault-free cycle by configuration, sequences (A) to (D) of rule R174. -/
def cycleEvents (c : Config) (f : Nat) (r : FlowRecord) (cause : WaitCause) (out data : List Byte) : List Event :=
  List.flatten
    [[Event.wait f cause], (if r.xp then [Event.xacq f r.xid] else []), [Event.lclr f r.latch], writeEvents c f r out,
      [Event.delay f .pre, Event.lset f r.latch],
      (if r.ip then [Event.tread f r.tport r.ilen r.ilen data] else []),
      [Event.delay f .post, Event.lclr f r.latch], (if r.xp then [Event.xrel f r.xid] else [])]

end Sys2Proof.Machine

namespace Sys2Proof

/-- The operations of the sequencer and of the ports: everything but the six host operations (rule R90). -/
def Instr.ofFlow : Instr → Bool
  | .bnew _ | .bread _ | .bwrite _ _ | .fnew _ | .finit _ | .ftrig _ => false
  | .s1Wait | .s2Acq | .s3LatchLow | .s4SerOut | .s5Filler | .s6SettlePre | .s7LatchHigh | .s8DeserIn
  | .s9SettlePost | .s10LatchLow | .s11Rel | .s12Loop
  | .lclr | .lset | .topen | .twrite | .tread | .xacq | .xrel => true

end Sys2Proof
end

