-- ==== Sys2Proof/Certificates/Slice0/Obligations.lean ====
section
/-! DEFINITION. The statements about the block, from the numbered rules of the spec. Each gives a next state with what
it holds, and through `Kept` everything that stays as it was. -/

open Sys2Proof Sys2Proof.Machine

/-! Encodings and fetching. -/

/-- Decoding the encoding of any operation gives the operation back, with every operand, and every code word that
decodes is the encoding of what it decodes to (rules R92, R96 to R98, R103; the numbers are the spec's decision D33).
-/
def Obligations.DecodeEncodeAgree : Prop :=
  (∀ i : Instr, decode (encode i) = .ok i) ∧ (∀ (c : Code) (i : Instr), decode c = .ok i → encode i = c)

/-- Which of the 2^32 command words are operations, in plain arithmetic: bits 15:1 zero, `OP` from 1 to 6, and bit 0
set only with `OP` 3 (rules R92, R100). The codes are the spec's decision D33. -/
def Obligations.HostWordLegality : Prop :=
  ∀ w : HostWord, (∃ i, decodeH w = .ok i) ↔
    (w.toNat / 2 % 2 ^ 15 = 0 ∧ 1 ≤ w.toNat / 2 ^ 28 ∧ w.toNat / 2 ^ 28 ≤ 6 ∧
      (w.toNat % 2 = 1 → w.toNat / 2 ^ 28 = 3))

/-- The example words of rule R103 and one code of each other format decode as the spec says. The codes are the spec's
decision D33. -/
def Obligations.SpecWordsDecode : Prop :=
  decodeH 0x30020001#32 = .ok (.bwrite 2#12 true) ∧ decodeH 0x30020000#32 = .ok (.bwrite 2#12 false) ∧
  decodeH 0x20050000#32 = .ok (.bread 5#12) ∧ decodeH 0x10000000#32 = .ok (.bnew 0#12) ∧
  decodeH 0x40010000#32 = .ok (.fnew 1#12) ∧ decodeH 0x50000000#32 = .ok (.finit 0#12) ∧
  decodeH 0x60030000#32 = .ok (.ftrig 3#12) ∧ decodeH 0x00000000#32 = .error .opcode ∧
  decodeH 0x70000000#32 = .error .opcode ∧ decodeH 0x20050001#32 = .error .vBit ∧
  decodeH 0x30020002#32 = .error .zeroField ∧ decodeS 0x4#4 = .ok .s4SerOut ∧ decodeS 0xC#4 = .ok .s12Loop ∧
  decodeP 0x6#3 = .ok .xacq

/-- Step codes 0 and 13 to 15 select no step, and port code 0 no operation (rule R101). The codes are the spec's
decision D33. -/
def Obligations.UnusedCodesSelectNothing : Prop :=
  (∀ c : StepCode, (∃ i, decodeS c = .ok i) ↔ 1 ≤ c.toNat ∧ c.toNat ≤ 12) ∧
  (∀ c : PortCode, (∃ i, decodeP c = .ok i) ↔ c ≠ 0#3)

/-- A step runs the decoded operation: a command word on a free host port with its records, the step `pc[f]` selects
in a live flow, the port operation a flow has in flight, and the BWRITE a host port is in the middle of. Around `exec`
the step takes the input, written down or drawn, and puts its operands on the port signals; it does nothing else.
(Rules R90, R91, R95 to R97. That one input is one transition, and that past the written ones it is the free value
`Config.freeInput`, is log 4, the port signals are log 10.) -/
def Obligations.StepRunsDecodedInstruction : Prop :=
  (∀ (s : State) (x : Input) (rest : List Input), s.script = x :: rest →
    nextInput s = x ∧ takeInput s = { s with script := rest }) ∧
  (∀ s : State, s.script = [] → nextInput s = Config.freeInput s.draws ∧ takeInput s = { s with draws := s.draws + 1 }) ∧
  (∀ (s : State) (h : Nat) (w : HostWord) (r : BarRecord) (q : FlowRecord) (i : Instr),
    s.fatal = false → nextInput s = .host h w r q → s.portFree h = true → r.fits s.cfg → q.fits s.cfg →
    decodeH w = .ok i →
    step s = exec i { takeInput s with bus := { s.bus with hport := h, bar := r, conf := q } }) ∧
  (∀ (s : State) (f : Nat) (i : Instr),
    s.fatal = false → nextInput s = .sequencer f → f < s.cfg.nFlows → (s.flow f).phase = .live →
    decodeS (s.flow f).pc = .ok i →
    step s = exec i { takeInput s with bus := { s.bus with flow := f } }) ∧
  (∀ (s : State) (f : Nat) (ok : Bool) (cnt : Int) (data : List Byte) (i : Instr),
    s.fatal = false → nextInput s = .answer f ok cnt data → f < s.cfg.nFlows →
    decodeP (s.flow f).inflight.code = .ok i →
    step s = exec i { takeInput s with bus := { s.bus with flow := f, ok := ok, cnt := cnt, data := data } }) ∧
  (∀ (s : State) (h : Nat) (b : Id) (v : Bool) (old : List Byte),
    s.fatal = false → nextInput s = .resume h → (s.port h).pending = .bwrite b v old →
    step s = exec (.bwrite b v) { takeInput s with bus := { s.bus with hport := h } })

/-- A command word that names no operation is refused, reason IllegalWord, and has no other effect; the step only
takes the input (rules R100, R230; the form of a refusal is the model's, log 12). -/
def Obligations.IllegalWordIsRefused : Prop :=
  ∀ (s : State) (h : Nat) (w : HostWord) (r : BarRecord) (q : FlowRecord) (e : Illegal),
    s.clean → nextInput s = .host h w r q → s.portFree h = true → r.fits s.cfg → q.fits s.cfg →
    decodeH w = .error e →
    ∃ t, step s = .next t ∧ Kept { refusal := some .illegalWord } (takeInput s) t

/-! Reset and the fatal halt. -/

/-- What reset leaves (rules R41, R250): no BAR valid, every flow VOID with `pc = 0`, no trigger pending, nothing held
or opened or in flight, every latch level X, no primitive owned, `FATAL = 0` with cause and unit 0, an empty trace,
`REFUSED = 0`. The values are the spec's decision D30. -/
def Obligations.ResetValues : Prop :=
  (∀ b, (State.reset.bar b).valid = false) ∧
  (∀ f, (State.reset.flow f).phase = .void ∧ (State.reset.flow f).pc = 0#4 ∧ (State.reset.flow f).trig = false ∧
    (State.reset.flow f).held = false ∧ (State.reset.flow f).opened = false ∧
    (State.reset.flow f).inflight = .none) ∧
  (∀ l, State.reset.latch l = .x) ∧ (∀ x, State.reset.owner x = none) ∧
  State.reset.fatal = false ∧ State.reset.fatalCause.code = 0#3 ∧ State.reset.fatalUnit = 0 ∧
  State.reset.trace = [] ∧ State.reset.refused = false

/-- The state after reset meets the invariant. -/
def Obligations.ResetMeetsInvariant : Prop := Inv State.reset

/-- There is no return from the fatal halt: in a halted block no operation of the table and no input but a restart has
a step, and a restart leaves no BAR valid, every flow VOID and no halt (rules R216, R220, R250). That after the halt no agent
has a step is the spec's decision D20, the fault that answers it log 23; what a restart keeps of the buffers is log 14. -/
def Obligations.HaltIsLeftOnlyByRestart : Prop :=
  ∀ s : State, s.fatal = true →
    (∀ i : Instr, exec i s = .fault (.halted s.fatalCause s.fatalUnit)) ∧
    (nextInput s ≠ .restart → step s = .fault (.halted s.fatalCause s.fatalUnit)) ∧
    (nextInput s = .restart → ∃ t, step s = .next t ∧ t.fatal = false ∧ (∀ b, (t.bar b).valid = false) ∧
      ∀ f, (t.flow f).phase = .void)

/-- A transition that halts the block records the cause and the unit, appends the FATAL event last, and changes
nothing else but the operation in flight of the one flow whose answer it took: every descriptor, `pc`, `HELD`, latch
level, owner, port, parameter and all of `MEM` keep their values, and so does every flow when no answer was taken (rules
R216, R218). What a halt records is the spec's decision D20; that the answer taken is no longer in flight is log 23. -/
def Obligations.HaltChangesNothingElse : Prop :=
  ∀ s t : State, step s = .next t → s.fatal = false → t.fatal = true →
    t.cfg = s.cfg ∧ (∀ b, t.bar b = s.bar b) ∧
    (∀ f, t.flow f = s.flow f ∨
      (∃ ok cnt data, nextInput s = .answer f ok cnt data) ∧ t.flow f = { s.flow f with inflight := .none }) ∧
    (∀ l, t.latch l = s.latch l) ∧ (∀ x, t.owner x = s.owner x) ∧ (∀ h, t.port h = s.port h) ∧
    (∀ a, t.byteAt a = s.byteAt a) ∧ t.refused = s.refused ∧ t.refusedWhy = s.refusedWhy ∧
    (∃ es : List Event, es.length ≤ 1 ∧ t.trace = s.trace ++ es ++ [.fatal t.fatalCause t.fatalUnit])

/-! Bit-Addressable Registers. -/

/-- BNEW stores the record as the descriptor of a number not in use, and touches nothing else (rule R121). Alignment
and wrapping, in its premise, are the spec's decisions D7 and D9. -/
def Obligations.BnewStoresDescriptor : Prop :=
  ∀ (s : State) (b : Id), s.portReady → b.toNat < s.cfg.nBars → (s.bar b.toNat).valid = false →
    BarOk s.cfg s.bus.bar →
    ∃ t, exec (.bnew b) s = .next t ∧ t.bar b.toNat = ⟨true, s.bus.bar⟩ ∧ Kept { bars := [b.toNat] } s t

/-- BNEW otherwise, in the order of its pseudocode: BadId, BarBaseUnaligned, BufferWraps, and then the fatal halt
BAR_INDEX_RANGE with the BAR's number, the descriptor not stored (rules R121, R217, R224 (c); refusals and halt are
the spec's decisions D7, D9, D21, D22, the form of a refusal is log 12). -/
def Obligations.BnewRefusalsThenRangeHalt : Prop :=
  ∀ (s : State) (b : Id), s.portReady →
    let r := s.bus.bar
    let refuses (why : Reason) : Prop := ∃ t, exec (.bnew b) s = .next t ∧ Kept { refusal := some why } s t
    if ¬ b.toNat < s.cfg.nBars ∨ (s.bar b.toNat).valid = true then refuses .badId
    else if r.base % s.cfg.wordBytes ≠ 0 then refuses .barBaseUnaligned
    else if r.base + r.len > 2 ^ s.cfg.addrBits then refuses .bufferWraps
    else r.index ≥ 8 * r.len →
      ∃ t, exec (.bnew b) s = .next t ∧ (t.bar b.toNat).valid = false ∧
        Kept { events := [.fatal .barIndexRange b.toNat], halt := some (.barIndexRange, b.toNat) } s t

/-- BREAD answers the targeted bit XOR the polarity on its host port and changes nothing else; on a BAR that does not
exist it is refused (rule R122). Which bit an index targets is `BITMAP` (D1, BitIndexIsBijection); where the answer
stands is log 9, the form of a refusal log 12. -/
def Obligations.BreadReturnsTargetBit : Prop :=
  ∀ (s : State) (b : Id), s.portReady →
    (s.hasBar b → s.cfg.wf → BarOk s.cfg (s.bar b.toNat).desc →
      ∃ t, exec (.bread b) s = .next t ∧
        (t.port s.bus.hport).result = xor ((s.byteAt (s.addrOf b.toNat)).getLsbD (s.bitOf b.toNat)) (s.bar b.toNat).desc.pol ∧
        (t.port s.bus.hport).pending = (s.port s.bus.hport).pending ∧ Kept { ports := [s.bus.hport] } s t) ∧
    (¬ s.hasBar b → ∃ t, exec (.bread b) s = .next t ∧ Kept { refusal := some .badId } s t)

/-- The first memory event of BWRITE reads the granule and leaves the port in the middle of the write; it writes no
byte (rules R70, R123). On a BAR that does not exist BWRITE is refused. Two events are the spec's decision D3, the
refusal D22; what the port keeps between them is log 9. -/
def Obligations.BwriteReadsGranule : Prop :=
  ∀ (s : State) (b : Id) (v : Bool), s.portReady →
    (s.hasBar b → s.hostRace s.bus.hport (s.addrOf b.toNat) true = false →
      s.granuleExists (s.addrOf b.toNat) →
      ∃ t, exec (.bwrite b v) s = .next t ∧
        (t.port s.bus.hport).pending = .bwrite b v (s.granuleAt (s.addrOf b.toNat)) ∧
        (t.port s.bus.hport).result = (s.port s.bus.hport).result ∧ Kept { ports := [s.bus.hport] } s t) ∧
    (¬ s.hasBar b → ∃ t, exec (.bwrite b v) s = .next t ∧ Kept { refusal := some .badId } s t)

/-- The second memory event of BWRITE writes the granule back with one bit replaced by `v` XOR the polarity (under the
switch BAR_WRITE_XOR, D2), and no byte outside the granule (rules R70, R123). Two events are the spec's decision D3; that
the write is noted for the race test is log 15. -/
def Obligations.BwriteWritesGranuleBack : Prop :=
  ∀ (s : State) (b : Id) (v : Bool) (old : List Byte), s.clean → s.bus.hport < s.cfg.nPorts →
    (s.port s.bus.hport).pending = .bwrite b v old → old.length = s.cfg.granule → 0 < s.cfg.granule →
    s.hostRace s.bus.hport (s.addrOf b.toNat) true = false → s.granuleExists (s.addrOf b.toNat) →
    let r := (s.bar b.toNat).desc
    let a := s.addrOf b.toNat
    let g := a - a % s.cfg.granule
    ∃ t, exec (.bwrite b v) s = .next t ∧ (t.port s.bus.hport).pending = .none ∧
      (t.port s.bus.hport).result = (s.port s.bus.hport).result ∧
      (∀ i < s.cfg.granule, ∀ k < 8, (t.byteAt (g + i)).getLsbD k =
        if g + i = a ∧ k = s.bitOf b.toNat then xor v (s.cfg.barWriteXor && r.pol) else (old.getD i 0#8).getLsbD k) ∧
      Kept { ports := [s.bus.hport], bytes := List.range' g s.cfg.granule,
             writes := some (s.noteWrite s.bus.hport a true).writes } s t

/-- A BWRITE event, first or second, is the fault race when it meets another context's BWRITE in progress over its word,
or a step 8 whose IN buffer meets its word, or comes after another context's BWRITE or direct write of its word that no
synchronisation has ordered before it; and so is a store of S8 into a word that a BWRITE is in the middle of (rules R75,
R76 (c), R232). When host context `a` synchronises with `b`, all writes of `a`, and all it has seen, are seen by `b`, and
nothing else changes (rule R75). Races are the spec's decision D25; what counts as a meeting, and the input that
synchronises, is log 15. -/
def Obligations.BwriteRaceIsFault : Prop :=
  (∀ (s : State) (b : Id) (v : Bool), s.clean → s.hasBar b →
    (s.portFree s.bus.hport = true ∨
      (s.bus.hport < s.cfg.nPorts ∧ ∃ old, (s.port s.bus.hport).pending = .bwrite b v old)) →
    ((∃ h c u old, h < s.cfg.nPorts ∧ h ≠ s.bus.hport ∧ (s.port h).pending = .bwrite c u old ∧
        wordOf s.cfg (s.addrOf c.toNat) = wordOf s.cfg (s.addrOf b.toNat)) ∨
      (∃ f, f < s.cfg.nFlows ∧ (s.flow f).phase = .live ∧ (s.flow f).pc = 8#4 ∧ (s.flow f).conf.ip = true ∧
        wordMeets s.cfg (wordOf s.cfg (s.addrOf b.toNat)) (s.flow f).conf.iptr (s.flow f).conf.ilen) ∨
      (∃ e ∈ s.writes, e.word = wordOf s.cfg (s.addrOf b.toNat) ∧ e.host ≠ s.bus.hport ∧ s.bus.hport ∉ e.seen)) →
    exec (.bwrite b v) s = .fault (.race (s.addrOf b.toNat))) ∧
  (∀ (s : State) (k : Nat) (v : Byte) (rest : List Byte), s.stepReady 8#4 .none → s.actor.conf.ip = true →
    s.actor.work = .store k (v :: rest) →
    (∃ h b u old, h < s.cfg.nPorts ∧ (s.port h).pending = .bwrite b u old ∧
      wordOf s.cfg (s.addrOf b.toNat) = wordOf s.cfg (s.actor.conf.iptr + k)) →
    exec .s8DeserIn s = .fault (.race (s.actor.conf.iptr + k))) ∧
  (∀ (s : State) (a b : Nat), s.clean → nextInput s = .sync a b →
    ∃ t, step s = .next t ∧ (∀ e ∈ t.writes, e.host = a → b ∈ e.seen) ∧
      Kept { writes := some (s.writes.map fun e =>
        if e.host = a ∨ a ∈ e.seen then { e with seen := b :: e.seen } else e) } (takeInput s) t)

/-- The frame law of a BWRITE that no other agent steps into: afterwards the BAR's bit is `v` XOR its polarity (with
BAR_WRITE_XOR at its default, D2), and every other bit of `MEM` is as before (rule R124). -/
def Obligations.BitWriteFrameLaw : Prop :=
  ∀ (s : State) (b : Id) (v : Bool), Inv s → s.portReady → s.cfg.barWriteXor = true → s.hasBar b →
    s.hostRace s.bus.hport (s.addrOf b.toNat) true = false →
    ∃ t u, exec (.bwrite b v) s = .next t ∧ exec (.bwrite b v) t = .next u ∧
      (∀ a k, k < 8 → (u.byteAt a).getLsbD k =
        if a = s.addrOf b.toNat ∧ k = s.bitOf b.toNat then xor v (s.bar b.toNat).desc.pol else (s.byteAt a).getLsbD k)

/-- A BREAD after a BWRITE of `v`, with no write between, answers `v` through the same BAR, and `v` XOR both polarities
through another BAR over the same bit, whatever its base and index (rule R125 (a), (b), (d); BAR_WRITE_XOR at its
default, D2). -/
def Obligations.WriteThenReadBack : Prop :=
  ∀ (s : State) (b c : Id) (v : Bool), Inv s → s.portReady → s.cfg.barWriteXor = true → s.hasBar b → s.hasBar c →
    s.addrOf c.toNat = s.addrOf b.toNat → s.bitOf c.toNat = s.bitOf b.toNat →
    s.hostRace s.bus.hport (s.addrOf b.toNat) true = false →
    ∃ t u w, exec (.bwrite b v) s = .next t ∧ exec (.bwrite b v) t = .next u ∧ exec (.bread c) u = .next w ∧
      (w.port s.bus.hport).result = xor (xor v (s.bar b.toNat).desc.pol) (s.bar c.toNat).desc.pol ∧
      (c = b → (w.port s.bus.hport).result = v)

/-- The map from a bit index to a byte and a bit is a bijection onto the bits of the buffer (rule R62), for every
`BITMAP` the parameters admit: two indices of one buffer never select the same bit, every index selects a bit of the
buffer, and every bit of the buffer has an index. By default it is byte `index div 8`, bit `index mod 8`. That the map is
a parameter, with this default, is the spec's decision D1; how it is written down is log 19. -/
def Obligations.BitIndexIsBijection : Prop :=
  (∀ (c : Config) (r q : BarRecord), c.wf → r.base = q.base → r.len = q.len → r.index < 8 * r.len → q.index < 8 * q.len →
    r.addr c = q.addr c → r.bit c = q.bit c → r.index = q.index) ∧
  (∀ (c : Config) (r : BarRecord), c.wf → r.index < 8 * r.len →
    r.base ≤ r.addr c ∧ r.addr c < r.base + r.len ∧ r.bit c < 8) ∧
  (∀ (c : Config) (r : BarRecord) (n k : Nat), c.wf → n < r.len → k < 8 →
    ∃ i, i < 8 * r.len ∧ ({ r with index := i } : BarRecord).addr c = r.base + n ∧
      ({ r with index := i } : BarRecord).bit c = k) ∧
  (∀ (c : Config) (r : BarRecord), c.bitmap = [] → r.addr c = r.base + r.index / 8 ∧ r.bit c = r.index % 8)

/-! Flow control. -/

/-- FNEW stores the record, clears the flags and makes the flow CONSTRUCTED with `pc = 0`, and touches nothing else
(rule R141, under the sharing rules of rule R142). Its premise has the spec's decisions D6, D7, D22, D23. -/
def Obligations.FnewConstructsFlow : Prop :=
  ∀ (s : State) (f : Id), s.portReady → f.toNat < s.cfg.nFlows → (s.flow f.toNat).phase = .void →
    ConfOk s.cfg s.bus.conf →
    (∀ g < s.cfg.nFlows, (s.flow g).phase ≠ .void → s.bus.conf.mayShare (s.flow g).conf) →
    ∃ t, exec (.fnew f) s = .next t ∧ (t.flow f.toNat).conf = s.bus.conf ∧
      (t.flow f.toNat).phase = .constructed ∧ (t.flow f.toNat).pc = 0#4 ∧ (t.flow f.toNat).trig = false ∧
      (t.flow f.toNat).held = false ∧ (t.flow f.toNat).opened = false ∧ (t.flow f.toNat).inflight = .none ∧
      (t.flow f.toNat).timer = (s.flow f.toNat).timer ∧ Kept { flows := [f.toNat] } s t

/-- The refusals of FNEW in the order of its pseudocode: BadId, BadPeriod, ZeroLength, BufferWraps, Sharing (rules R141,
R142, R230; the spec's decisions D6, D7, D22, D23, the form of a refusal is log 12). -/
def Obligations.FnewRefusals : Prop :=
  ∀ (s : State) (f : Id), s.portReady →
    let r := s.bus.conf
    let refuses (why : Reason) : Prop := ∃ t, exec (.fnew f) s = .next t ∧ Kept { refusal := some why } s t
    if ¬ f.toNat < s.cfg.nFlows ∨ (s.flow f.toNat).phase ≠ .void ∨ ¬ r.tport < s.cfg.nTransports ∨
        ¬ r.latch < s.cfg.nLatches ∨ (r.xp = true ∧ ¬ r.xid < s.cfg.nExcl) then refuses .badId
    else if r.period ≤ 0 then refuses .badPeriod
    else if (r.op = true ∧ r.olen = 0) ∨ (r.ip = true ∧ r.ilen = 0) then refuses .zeroLength
    else if (r.op = true ∧ r.optr + r.olen > 2 ^ s.cfg.addrBits) ∨
        (r.ip = true ∧ r.iptr + r.ilen > 2 ^ s.cfg.addrBits) then refuses .bufferWraps
    else (∃ g < s.cfg.nFlows, (s.flow g).phase ≠ .void ∧
        ((r.tport = (s.flow g).conf.tport ∧
            ¬ (r.xp = true ∧ (s.flow g).conf.xp = true ∧ r.xid = (s.flow g).conf.xid)) ∨
          r.latch = (s.flow g).conf.latch)) → refuses .sharing

/-- FNEW with a record that no refusal meets and a present buffer pointer that is not word-aligned raises
INIT_MISALIGNED with the flow's number; the flow stays VOID (rules R141, R213, R224). The refusals that come first are the
spec's decisions D6, D7, D22, D23, that FNEW makes this test D19, what a halt records D20. -/
def Obligations.MisalignedBufferHalts : Prop :=
  ∀ (s : State) (f : Id), s.portReady → f.toNat < s.cfg.nFlows → (s.flow f.toNat).phase = .void →
    let r := s.bus.conf
    r.tport < s.cfg.nTransports → r.latch < s.cfg.nLatches → (r.xp = true → r.xid < s.cfg.nExcl) → 0 < r.period →
    (r.op = true → 1 ≤ r.olen ∧ r.optr + r.olen ≤ 2 ^ s.cfg.addrBits) →
    (r.ip = true → 1 ≤ r.ilen ∧ r.iptr + r.ilen ≤ 2 ^ s.cfg.addrBits) →
    (∀ g < s.cfg.nFlows, (s.flow g).phase ≠ .void → r.mayShare (s.flow g).conf) →
    ((r.op = true ∧ r.optr % s.cfg.wordBytes ≠ 0) ∨ (r.ip = true ∧ r.iptr % s.cfg.wordBytes ≠ 0)) →
    ∃ t, exec (.fnew f) s = .next t ∧ (t.flow f.toNat).phase = .void ∧
      Kept { events := [.fatal .initMisaligned f.toNat], halt := some (.initMisaligned, f.toNat) } s t

/-- FINIT on a CONSTRUCTED flow issues TOPEN and its host port waits for the answer; on any other flow, or while that
answer is out, it is refused (rule R143; the last case is log 16). Two transitions are the spec's decision D37, the
refusal D22. -/
def Obligations.FinitIssuesOpen : Prop :=
  ∀ (s : State) (f : Id), s.portReady →
    (f.toNat < s.cfg.nFlows → (s.flow f.toNat).phase = .constructed → (s.flow f.toNat).inflight = .none →
      ∃ t, exec (.finit f) s = .next t ∧ t.flow f.toNat = { s.flow f.toNat with inflight := .topen } ∧
        (t.port s.bus.hport).pending = .finit f.toNat ∧
        (t.port s.bus.hport).result = (s.port s.bus.hport).result ∧
        Kept { flows := [f.toNat], ports := [s.bus.hport] } s t) ∧
    (¬ f.toNat < s.cfg.nFlows ∨ (s.flow f.toNat).phase ≠ .constructed ∨ (s.flow f.toNat).inflight ≠ .none →
      ∃ t, exec (.finit f) s = .next t ∧ Kept { refusal := some .badPhase } s t)

/-- TOPEN answered 1 makes the flow LIVE at step 1 with `OPENED = 1` and a full timer (rules R143, R192). The timer is
the spec's decision D12. -/
def Obligations.OpenMakesFlowLive : Prop :=
  ∀ s : State, s.clean → s.actor.inflight = .topen → s.actor.phase = .constructed → s.bus.ok = true →
    ∃ t, exec .topen s = .next t ∧
      t.actor = { s.actor with inflight := .none, opened := true, timer := s.actor.conf.period, pc := 1#4, phase := .live } ∧
      Kept { flows := [s.bus.flow], events := [.topen s.bus.flow s.actor.conf.tport true] } s t

/-- TOPEN answered 0 raises INIT_OPEN_FAIL with the flow's number: the flow stays CONSTRUCTED at `pc` 0, no latch line
is driven and no memory touched (rules R212, R216, R218). What a halt records is the spec's decision D20, that the answer is
a transition of its own D37, that it is no longer in flight log 23. -/
def Obligations.FailedOpenHalts : Prop :=
  ∀ s : State, Inv s → s.clean → s.actor.inflight = .topen → s.bus.ok = false →
    ∃ t, exec .topen s = .next t ∧ t.actor.phase = .constructed ∧ t.actor.pc = 0#4 ∧
      t.actor = { s.actor with inflight := .none } ∧
      Kept { flows := [s.bus.flow],
             events := [.topen s.bus.flow s.actor.conf.tport false, .fatal .initOpenFail s.bus.flow],
             halt := some (.initOpenFail, s.bus.flow) } s t

/-- FTRIG sets `TRIG` of a live flow and nothing else, whatever `TRIG` was; on a flow that is not LIVE it is refused
(rule R145). A trigger is kept by the spec's decision D13; the refusal is D22. -/
def Obligations.FtrigSetsTrigger : Prop :=
  ∀ (s : State) (f : Id), s.portReady →
    (f.toNat < s.cfg.nFlows → (s.flow f.toNat).phase = .live →
      ∃ t, exec (.ftrig f) s = .next t ∧ t.flow f.toNat = { s.flow f.toNat with trig := true } ∧
        Kept { flows := [f.toNat] } s t) ∧
    (¬ f.toNat < s.cfg.nFlows ∨ (s.flow f.toNat).phase ≠ .live →
      ∃ t, exec (.ftrig f) s = .next t ∧ Kept { refusal := some .badPhase } s t)

/-! The refresh cycle. -/

/-- S1 leaves its wait when the timer is 0 or a trigger is pending, clears `TRIG`, records TRIGGER when it was pending
and PERIOD otherwise, and goes to step 2; until then it waits and nothing changes (rule R161). Timer and cause are the
spec's decisions D13 and D14. -/
def Obligations.S1WaitsForPeriodOrTrigger : Prop :=
  ∀ s : State, s.stepReady 1#4 .none →
    (s.actor.timer = 0 ∨ s.actor.trig = true →
      ∃ t, exec .s1Wait s = .next t ∧ t.actor = { s.actor with trig := false, pc := 2#4 } ∧
        Kept { flows := [s.bus.flow],
               events := [.wait s.bus.flow (if s.actor.trig then .trigger else .period)] } s t) ∧
    (s.actor.timer ≠ 0 → s.actor.trig = false → exec .s1Wait s = .next s)

/-- S2 without a primitive goes on to step 3 with no event; with one it asks for it (rule R162). Request and grant are
apart by the spec's decision D37. -/
def Obligations.S2AsksForPrimitive : Prop :=
  ∀ s : State, s.stepReady 2#4 .none →
    (s.actor.conf.xp = false →
      ∃ t, exec .s2Acq s = .next t ∧ t.actor = { s.actor with pc := 3#4 } ∧ Kept { flows := [s.bus.flow] } s t) ∧
    (s.actor.conf.xp = true →
      ∃ t, exec .s2Acq s = .next t ∧ t.actor = { s.actor with inflight := .xacq s.actor.conf.xid } ∧
        Kept { flows := [s.bus.flow] } s t)

/-- XACQ of a primitive nobody owns is granted: the owner is the flow, `HELD = 1`, `pc = 3`, in one transition; while
somebody owns it, or another flow of the execution context runs, the flow waits and nothing changes (rules R162, R177,
R195). The owner is the spec's decision D38; that only a free execution context goes on is D24 and log 21. -/
def Obligations.XacqGrantsFreePrimitive : Prop :=
  ∀ (s : State) (x : Nat), s.clean → s.actor.inflight = .xacq x → s.actor.pc = 2#4 →
    (s.owner x = none → s.ctxFree s.bus.flow = true →
      ∃ t, exec .xacq s = .next t ∧ t.owner x = some s.bus.flow ∧
        t.actor = { s.actor with inflight := .none, held := true, pc := 3#4 } ∧
        Kept { flows := [s.bus.flow], owners := [x], events := [.xacq s.bus.flow x] } s t) ∧
    (s.owner x ≠ none → exec .xacq s = .next s) ∧
    (s.owner x = none → s.ctxFree s.bus.flow = false → exec .xacq s = .next s)

/-- S3 drives the latch low whatever its level was and whatever buffers are configured (rule R163). -/
def Obligations.S3DrivesLatchLow : Prop :=
  ∀ s : State, s.stepReady 3#4 .none →
    ∃ t, exec .s3LatchLow s = .next t ∧ t.latch s.actor.conf.latch = .low ∧ t.actor = { s.actor with pc := 4#4 } ∧
      Kept { flows := [s.bus.flow], latches := [s.actor.conf.latch],
             events := [.lclr s.bus.flow s.actor.conf.latch] } s t

/-- S4 with an output buffer reads its bytes one a transition in address order, then issues one TWRITE of exactly
those `OLEN` bytes; it never writes `MEM`. Without one it goes on to step 5 (rules R61, R77, R164). One event a byte
is the spec's decision D26; the bytes read so far are log 8. -/
def Obligations.S4SerializesOutput : Prop :=
  ∀ s : State, s.stepReady 4#4 .none →
    (s.actor.conf.op = true → s.actor.gathered.length < s.actor.conf.olen →
      s.actor.conf.optr + s.actor.conf.olen ≤ 2 ^ s.cfg.addrBits →
      ∃ t, exec .s4SerOut s = .next t ∧
        t.actor = { s.actor with
          work := .gather (s.actor.gathered ++ [s.byteAt (s.actor.conf.optr + s.actor.gathered.length)]) } ∧
        Kept { flows := [s.bus.flow] } s t) ∧
    (s.actor.conf.op = true → s.actor.gathered.length = s.actor.conf.olen →
      ∃ t, exec .s4SerOut s = .next t ∧
        t.actor = { s.actor with work := .idle, inflight := .twrite s.actor.gathered s.actor.conf.olen } ∧
        Kept { flows := [s.bus.flow] } s t) ∧
    (s.actor.conf.op = false →
      ∃ t, exec .s4SerOut s = .next t ∧ t.actor = { s.actor with pc := 5#4 } ∧ Kept { flows := [s.bus.flow] } s t)

/-- S5 issues TWRITE of the one filler byte exactly when the output is absent and the input present; otherwise it goes
on to step 6 with no event (rule R165; the byte is the parameter FILLER, D16). -/
def Obligations.S5SendsFillerForInputOnly : Prop :=
  ∀ s : State, s.stepReady 5#4 .none →
    (s.actor.conf.op = false → s.actor.conf.ip = true →
      ∃ t, exec .s5Filler s = .next t ∧ t.actor = { s.actor with inflight := .twrite [s.cfg.filler] 1 } ∧
        Kept { flows := [s.bus.flow] } s t) ∧
    (s.actor.conf.op = true ∨ s.actor.conf.ip = false →
      ∃ t, exec .s5Filler s = .next t ∧ t.actor = { s.actor with pc := 6#4 } ∧ Kept { flows := [s.bus.flow] } s t)

/-- TWRITE answered with the right count: S4 goes to step 5, and S5 drives the latch low once more, after the write,
and goes to step 6 (rules R164, R165, R193). The answer is a transition of its own by the spec's decision D37. -/
def Obligations.FullWriteGoesOn : Prop :=
  ∀ (s : State) (bytes : List Byte) (n : Nat), s.clean → s.actor.inflight = .twrite bytes n →
    (s.actor.pc = 4#4 → s.bus.cnt = s.actor.conf.olen →
      ∃ t, exec .twrite s = .next t ∧ t.actor = { s.actor with inflight := .none, pc := 5#4 } ∧
        Kept { flows := [s.bus.flow], events := [.twrite s.bus.flow s.actor.conf.tport bytes s.bus.cnt] } s t) ∧
    (s.actor.pc = 5#4 → s.bus.cnt = 1 →
      ∃ t, exec .twrite s = .next t ∧ t.actor = { s.actor with inflight := .none, pc := 6#4 } ∧
        t.latch s.actor.conf.latch = .low ∧
        Kept { flows := [s.bus.flow], latches := [s.actor.conf.latch],
               events := [.twrite s.bus.flow s.actor.conf.tport bytes s.bus.cnt,
                          .lclr s.bus.flow s.actor.conf.latch] } s t)

/-- TWRITE answered with any other integer raises IO_SHORT_WRITE with the flow's number: `pc` stays 4 or 5, the latch
is low, `HELD` is unchanged and 1 if the flow has a primitive, and this transition does not write `MEM` (rules R214, R216,
R218). That no earlier one of the cycle did follows from UnitsTouchOnlyTheirOwn: of a flow's operations S8 alone writes,
and it comes later. What a halt records is the spec's decision D20, that the answer is no longer in flight log 23. -/
def Obligations.ShortWriteHalts : Prop :=
  ∀ (s : State) (bytes : List Byte) (n : Nat), Inv s → s.clean → s.actor.inflight = .twrite bytes n → s.bus.cnt ≠ n →
    ∃ t, exec .twrite s = .next t ∧ (t.actor.pc = 4#4 ∨ t.actor.pc = 5#4) ∧
      t.latch s.actor.conf.latch = .low ∧ (s.actor.conf.xp = true → t.actor.held = true) ∧
      t.actor = { s.actor with inflight := .none } ∧
      Kept { flows := [s.bus.flow],
             events := [.twrite s.bus.flow s.actor.conf.tport bytes s.bus.cnt, .fatal .ioShortWrite s.bus.flow],
             halt := some (.ioShortWrite, s.bus.flow) } s t

/-- S6 and S9 begin their hold with the parameter's delay, last while it has not been counted down, and end with their
event, going to steps 7 and 10 (rules R166, R169, R197). A hold counted in units of the time base is log 18. -/
def Obligations.SettlingDelaysHold : Prop :=
  (∀ s : State, s.stepReady 6#4 .none →
    ∃ t, exec .s6SettlePre s = .next t ∧
      t.actor = { s.actor with inflight := .delay .pre, hold := s.cfg.tSettlePre } ∧
      Kept { flows := [s.bus.flow] } s t) ∧
  (∀ s : State, s.stepReady 6#4 (.delay .pre) →
    (s.actor.hold ≠ 0 → exec .s6SettlePre s = .next s) ∧
    (s.actor.hold = 0 → ∃ t, exec .s6SettlePre s = .next t ∧
      t.actor = { s.actor with inflight := .none, pc := 7#4 } ∧
      Kept { flows := [s.bus.flow], events := [.delay s.bus.flow .pre] } s t)) ∧
  (∀ s : State, s.stepReady 9#4 .none →
    ∃ t, exec .s9SettlePost s = .next t ∧
      t.actor = { s.actor with inflight := .delay .post, hold := s.cfg.tSettlePost } ∧
      Kept { flows := [s.bus.flow] } s t) ∧
  (∀ s : State, s.stepReady 9#4 (.delay .post) →
    (s.actor.hold ≠ 0 → exec .s9SettlePost s = .next s) ∧
    (s.actor.hold = 0 → ∃ t, exec .s9SettlePost s = .next t ∧
      t.actor = { s.actor with inflight := .none, pc := 10#4 } ∧
      Kept { flows := [s.bus.flow], events := [.delay s.bus.flow .post] } s t))

/-- S7 drives the latch high, in every configuration (rules R167, R191). -/
def Obligations.S7DrivesLatchHigh : Prop :=
  ∀ s : State, s.stepReady 7#4 .none →
    ∃ t, exec .s7LatchHigh s = .next t ∧ t.latch s.actor.conf.latch = .high ∧ t.actor = { s.actor with pc := 8#4 } ∧
      Kept { flows := [s.bus.flow], latches := [s.actor.conf.latch],
             events := [.lset s.bus.flow s.actor.conf.latch] } s t

/-- S8 without an input buffer goes on to step 9; with one it issues TREAD of `ILEN` bytes, and after a good answer
stores them one a transition, byte `k` at `IPTR + k` and nothing else, and then goes to step 9 (rules R61, R77, R168).
One event a byte is the spec's decision D26; the bytes still to store are log 8. -/
def Obligations.S8DeserializesInput : Prop :=
  ∀ s : State, s.stepReady 8#4 .none →
    (s.actor.conf.ip = false →
      ∃ t, exec .s8DeserIn s = .next t ∧ t.actor = { s.actor with pc := 9#4 } ∧ Kept { flows := [s.bus.flow] } s t) ∧
    (s.actor.conf.ip = true → s.actor.work = .idle →
      ∃ t, exec .s8DeserIn s = .next t ∧ t.actor = { s.actor with inflight := .tread s.actor.conf.ilen } ∧
        Kept { flows := [s.bus.flow] } s t) ∧
    (∀ (k : Nat) (v : Byte) (rest : List Byte), s.actor.conf.ip = true → s.actor.work = .store k (v :: rest) →
      s.anyMidWrite (wordOf s.cfg (s.actor.conf.iptr + k)) = false → s.actor.conf.iptr + k < 2 ^ s.cfg.addrBits →
      ∃ t, exec .s8DeserIn s = .next t ∧ t.byteAt (s.actor.conf.iptr + k) = v ∧
        t.actor = { s.actor with work := .store (k + 1) rest } ∧
        Kept { flows := [s.bus.flow], bytes := [s.actor.conf.iptr + k] } s t) ∧
    (∀ k : Nat, s.actor.conf.ip = true → s.actor.work = .store k [] →
      ∃ t, exec .s8DeserIn s = .next t ∧ t.actor = { s.actor with work := .idle, pc := 9#4 } ∧
        Kept { flows := [s.bus.flow] } s t)

/-- TREAD answered with the right count and as many bytes: they wait to be stored, and no byte of `MEM` has changed
yet (rules R168, R194). The answer is a transition of its own by the spec's decision D37. -/
def Obligations.FullReadWaitsToBeStored : Prop :=
  ∀ (s : State) (n : Nat), s.clean → s.actor.inflight = .tread n → s.actor.pc = 8#4 → n = s.actor.conf.ilen →
    s.bus.cnt = n → s.bus.data.length = n →
    ∃ t, exec .tread s = .next t ∧ t.actor = { s.actor with inflight := .none, work := .store 0 s.bus.data } ∧
      Kept { flows := [s.bus.flow],
             events := [.tread s.bus.flow s.actor.conf.tport n s.bus.cnt s.bus.data] } s t

/-- TREAD answered with any other integer raises IO_SHORT_READ with the flow's number: `pc` stays 8, the line stays
high, `HELD` is unchanged, and no byte of `MEM` is written whatever the transport delivered (rule R215). The last
clause of the rule, on what went before, is not stated here. What a halt records is the spec's decision D20, that the
answer is no longer in flight log 23. -/
def Obligations.ShortReadHalts : Prop :=
  ∀ (s : State) (n : Nat), Inv s → s.clean → s.actor.inflight = .tread n → s.bus.cnt ≠ n →
    ∃ t, exec .tread s = .next t ∧ t.actor.pc = 8#4 ∧ t.latch s.actor.conf.latch = .high ∧
      t.actor = { s.actor with inflight := .none } ∧
      Kept { flows := [s.bus.flow],
             events := [.tread s.bus.flow s.actor.conf.tport n s.bus.cnt s.bus.data, .fatal .ioShortRead s.bus.flow],
             halt := some (.ioShortRead, s.bus.flow) } s t

/-- S10 returns the latch to low, in every configuration (rule R170). -/
def Obligations.S10ReturnsLatchLow : Prop :=
  ∀ s : State, s.stepReady 10#4 .none →
    ∃ t, exec .s10LatchLow s = .next t ∧ t.latch s.actor.conf.latch = .low ∧ t.actor = { s.actor with pc := 11#4 } ∧
      Kept { flows := [s.bus.flow], latches := [s.actor.conf.latch],
             events := [.lclr s.bus.flow s.actor.conf.latch] } s t

/-- S11 releases the primitive if held, and clears `HELD`; otherwise it goes on with no event (rule R171). -/
def Obligations.S11ReleasesIfHeld : Prop :=
  ∀ s : State, s.stepReady 11#4 .none →
    (s.actor.held = true →
      ∃ t, exec .s11Rel s = .next t ∧ t.owner s.actor.conf.xid = none ∧
        t.actor = { s.actor with held := false, pc := 12#4 } ∧
        Kept { flows := [s.bus.flow], owners := [s.actor.conf.xid],
               events := [.xrel s.bus.flow s.actor.conf.xid] } s t) ∧
    (s.actor.held = false →
      ∃ t, exec .s11Rel s = .next t ∧ t.actor = { s.actor with pc := 12#4 } ∧ Kept { flows := [s.bus.flow] } s t)

/-- S12 loads the timer with the period and resumes from step 1, keeping a trigger that arrived (rule R172). The timer
is the spec's decision D14. -/
def Obligations.S12ResumesFromStepOne : Prop :=
  ∀ s : State, s.stepReady 12#4 .none →
    ∃ t, exec .s12Loop s = .next t ∧ t.actor = { s.actor with timer := s.actor.conf.period, pc := 1#4 } ∧
      Kept { flows := [s.bus.flow] } s t

/-- LCLR, LSET, and XREL by the owner, presented on their ports by themselves: the level, or the owner, and the event
(rules R190, R191, R196; that they can be presented by themselves is log 7). -/
def Obligations.InstantPortOperations : Prop :=
  (∀ s : State, s.clean → s.actor.inflight = .lclr →
    ∃ t, exec .lclr s = .next t ∧ t.latch s.actor.conf.latch = .low ∧ t.actor = { s.actor with inflight := .none } ∧
      Kept { flows := [s.bus.flow], latches := [s.actor.conf.latch],
             events := [.lclr s.bus.flow s.actor.conf.latch] } s t) ∧
  (∀ s : State, s.clean → s.actor.inflight = .lset →
    ∃ t, exec .lset s = .next t ∧ t.latch s.actor.conf.latch = .high ∧ t.actor = { s.actor with inflight := .none } ∧
      Kept { flows := [s.bus.flow], latches := [s.actor.conf.latch],
             events := [.lset s.bus.flow s.actor.conf.latch] } s t) ∧
  (∀ s : State, s.clean → s.actor.inflight = .xrel → s.owner s.actor.conf.xid = some s.bus.flow →
    ∃ t, exec .xrel s = .next t ∧ t.owner s.actor.conf.xid = none ∧ t.actor = { s.actor with inflight := .none } ∧
      Kept { flows := [s.bus.flow], owners := [s.actor.conf.xid],
             events := [.xrel s.bus.flow s.actor.conf.xid] } s t)

/-- One unit of the time base counts the timer of a flow in step 1 down to 0 and no further, the hold of a delay in
flight likewise, and nothing else (rule R197). The unit, and a count for each flow by itself, are log 18. -/
def Obligations.TimeBaseCountsDown : Prop :=
  ∀ (s : State) (f : Nat), s.clean → nextInput s = .tick f → f < s.cfg.nFlows →
    ∃ t, step s = .next t ∧
      t.flow f = { s.flow f with
        timer := if (s.flow f).phase = .live ∧ (s.flow f).pc = 1#4 ∧ 0 < (s.flow f).timer then (s.flow f).timer - 1
          else (s.flow f).timer
        hold := if (s.flow f).inflight = .delay .pre ∨ (s.flow f).inflight = .delay .post then (s.flow f).hold - 1
          else (s.flow f).hold } ∧
      Kept { flows := [f] } (takeInput s) t

/-- A direct write of the host puts its one byte into `MEM` and changes nothing else; at an address that does not exist
it is a fault, and so is one that meets another writer of its word or comes unsynchronised after another context's BWRITE
(rules R37, R60, R75, R200). Races are the spec's decision D25; what counts as a meeting, and that the write is noted, is
log 15, that a busy port's context does not write log 9. -/
def Obligations.OwnerWritesOneByte : Prop :=
  ∀ (s : State) (h a : Nat) (v : Byte), s.clean → nextInput s = .ownerWrite h a v → s.portFree h = true →
    (s.hostRace h a false = false → a < 2 ^ s.cfg.addrBits →
      ∃ t, step s = .next t ∧ t.byteAt a = v ∧
        Kept { bytes := [a], writes := some (s.noteWrite h a false).writes } (takeInput s) t) ∧
    (s.hostRace h a false = false → ¬ a < 2 ^ s.cfg.addrBits → step s = .fault (.noSuchAddress a)) ∧
    (s.hostRace h a false = true → step s = .fault (.race a))

/-- Freeing or moving bytes of which a valid BAR's buffer or a present buffer of a flow that is not VOID has one is
refused, reason BufferGone; bytes that nothing references, and no bytes at all, are none of the block's business (rules
R82, R230). The refusal is the spec's decision D40, the input and the case of no bytes log 25, the form of a refusal
log 12. -/
def Obligations.BufferInUseMustStay : Prop :=
  ∀ (s : State) (p n : Nat), s.clean → nextInput s = .bufferGone p n →
    let shares (q m : Nat) : Prop := ∃ a, p ≤ a ∧ a < p + n ∧ q ≤ a ∧ a < q + m
    let used : Prop :=
      (∃ b < s.cfg.nBars, (s.bar b).valid = true ∧ shares (s.bar b).desc.base (s.bar b).desc.len) ∨
      (∃ f < s.cfg.nFlows, (s.flow f).phase ≠ .void ∧
        (((s.flow f).conf.op = true ∧ shares (s.flow f).conf.optr (s.flow f).conf.olen) ∨
          ((s.flow f).conf.ip = true ∧ shares (s.flow f).conf.iptr (s.flow f).conf.ilen)))
    (used → ∃ t, step s = .next t ∧ Kept { refusal := some .bufferGone } (takeInput s) t) ∧
    (¬ used → step s = .next (takeInput s))

/-- A live sequencer has no step while a port operation of its flow is in flight, nor while another flow of its execution
context is past a suspension point: its turn changes nothing but the list of inputs and the port signals (rules R33,
R175, R177). Contexts are the spec's decision D24; that a turn without a step is a transition is log 20. -/
def Obligations.BlockedSequencerDoesNothing : Prop :=
  ∀ (s : State) (f : Nat), s.fatal = false → nextInput s = .sequencer f → f < s.cfg.nFlows →
    (s.flow f).phase = .live → 1 ≤ (s.flow f).pc.toNat → (s.flow f).pc.toNat ≤ 12 →
    ((∃ g < s.cfg.nFlows, g ≠ f ∧ (s.flow g).conf.ctx = (s.flow f).conf.ctx ∧ (s.flow g).running) ∨
      ((s.flow f).inflight ≠ .none ∧ ∀ k, (s.flow f).inflight ≠ .delay k)) →
    step s = .next { takeInput s with bus := { s.bus with flow := f } }

/-! The whole machine. -/

/-- Every transition keeps the invariant: descriptors and configurations in range and aligned, the sharing rules,
every flow's registers in agreement with its phase and step, owners in agreement with `HELD`, latch levels in
agreement with the steps, one running flow per execution context, and write-backs in progress apart and up to date.
Its parts are those of rules R7, R23, R25 to R33, R142, R173, R177, R178 and, for write-backs in progress, log 9. -/
def Obligations.StepKeepsInvariant : Prop := ∀ s t : State, Inv s → step s = .next t → Inv t

/-- Every transition keeps the canonical form of `MEM`, from any state at all. The form is log 3. -/
def Obligations.StepKeepsCanonicalMemory : Prop :=
  ∀ s t : State, Memory.wf s.mem → step s = .next t → Memory.wf t.mem

/-- At most one flow of a primitive is in steps 3 to 11, it holds the primitive and owns it; so of the flows that
share a transport at most one is there (rule R178). The owner is the spec's decision D38. -/
def Obligations.OneFlowPerPrimitive : Prop :=
  ∀ (s : State) (f g : Nat), Inv s → (s.flow f).inBusSteps → (s.flow g).inBusSteps →
    ((s.flow f).conf.xp = true → (s.flow f).held = true ∧ s.owner (s.flow f).conf.xid = some f) ∧
    ((s.flow f).conf.xp = true → (s.flow g).conf.xp = true → (s.flow f).conf.xid = (s.flow g).conf.xid → f = g) ∧
    ((s.flow f).conf.tport = (s.flow g).conf.tport → f = g)

/-- Between an XACQ and its XREL: every latch or transport event a transition appends is of a flow that either has no
primitive or holds and owns it (rules R178, R264). The owner is the spec's decision D38. -/
def Obligations.BusOnlyUnderExclusion : Prop :=
  ∀ s t : State, Inv s → step s = .next t → nextInput s ≠ .restart →
    ∃ es, t.trace = s.trace ++ es ∧
      ∀ e ∈ es, ∀ f, e.busFlow = some f → (s.flow f).conf.xp = true →
        (s.flow f).held = true ∧ s.owner (s.flow f).conf.xid = some f

/-- The line of a live flow is high exactly in steps 8 to 10, and once a flow has driven it, in no other step than 1 to
3 anything but low (rule R173). -/
def Obligations.LatchHighExactlyFromS7ToS10 : Prop :=
  ∀ (s : State) (f : Nat), Inv s → (s.flow f).phase = .live →
    (s.latch (s.flow f).conf.latch = .high ↔ 8 ≤ (s.flow f).pc.toNat ∧ (s.flow f).pc.toNat ≤ 10) ∧
    (4 ≤ (s.flow f).pc.toNat → s.latch (s.flow f).conf.latch ≠ .x)

/-- Short of a restart nothing takes a descriptor or a configuration back: a valid BAR never changes, a flow's
configuration never changes once it is not VOID, a phase only goes from VOID to CONSTRUCTED to LIVE, and the
parameters stay (rules R22, R24, R26). -/
def Obligations.WiringIsPermanent : Prop :=
  ∀ s t : State, step s = .next t → nextInput s ≠ .restart →
    t.cfg = s.cfg ∧ (∀ b, (s.bar b).valid = true → t.bar b = s.bar b) ∧
    (∀ f, (s.flow f).phase ≠ .void → (t.flow f).conf = (s.flow f).conf) ∧
    (∀ f, (t.flow f).phase = (s.flow f).phase ∨ ((s.flow f).phase = .void ∧ (t.flow f).phase = .constructed) ∨
      ((s.flow f).phase = .constructed ∧ (t.flow f).phase = .live))

/-- Short of a restart `pc[f]` moves only from a step to the next, from 12 to 1, to 1 when the flow becomes live, and
to 0 in the construction of a VOID flow (rule R27). The codes are the spec's decision D17. -/
def Obligations.StepRegisterMoves : Prop :=
  ∀ s t : State, step s = .next t → nextInput s ≠ .restart → ∀ f,
    (t.flow f).pc = (s.flow f).pc ∨
    (1 ≤ (s.flow f).pc.toNat ∧ (s.flow f).pc.toNat ≤ 11 ∧ (t.flow f).pc.toNat = (s.flow f).pc.toNat + 1) ∨
    ((s.flow f).pc.toNat = 12 ∧ (t.flow f).pc.toNat = 1) ∨
    ((s.flow f).phase = .constructed ∧ (t.flow f).phase = .live ∧ (t.flow f).pc.toNat = 1) ∨
    ((s.flow f).phase = .void ∧ (t.flow f).phase = .constructed ∧ (t.flow f).pc.toNat = 0)

/-- Short of a restart the trace only grows, by at most two events a transition (rule R46). That a transition appends
at most two is the model's. -/
def Obligations.TraceOnlyGrows : Prop :=
  ∀ s t : State, step s = .next t → nextInput s ≠ .restart →
    ∃ es : List Event, es.length ≤ 2 ∧ t.trace = s.trace ++ es

/-- Short of a restart the only writers of `MEM` are the host as owner, the write-back of a BWRITE, which changes its one
bit and no other, and a store of S8 (rules R37, R40, R124). That a write-back changes no other bit holds since writers
that meet are a race, whose test is log 15. -/
def Obligations.MemoryHasThreeWriters : Prop :=
  ∀ s t : State, Inv s → step s = .next t → nextInput s ≠ .restart → ∀ a, t.byteAt a ≠ s.byteAt a →
    (∃ h v, nextInput s = .ownerWrite h a v ∧ t.byteAt a = v) ∨
    (∃ h b v old, nextInput s = .resume h ∧ (s.port h).pending = .bwrite b v old ∧
      a = s.addrOf b.toNat ∧ ∀ k, k < 8 → k ≠ s.bitOf b.toNat → (t.byteAt a).getLsbD k = (s.byteAt a).getLsbD k) ∨
    (∃ f k v rest, nextInput s = .sequencer f ∧ (s.flow f).phase = .live ∧ (s.flow f).pc = 8#4 ∧
      (s.flow f).work = .store k (v :: rest) ∧ a = (s.flow f).conf.iptr + k ∧ t.byteAt a = v)

/-- The block never reaches outside `MEM` and never comes to a step code that is no step: only a direct write of the
host can name an address that does not exist (rules R60, R67, R101). -/
def Obligations.BlockStaysInsideMemory : Prop :=
  ∀ s : State, Inv s →
    (∀ a, step s = .fault (.noSuchAddress a) → ∃ h v, nextInput s = .ownerWrite h a v) ∧
    (∀ f, step s ≠ .fault (.noSuchStep f))

/-- The operations of one flow's sequencer and ports touch no other flow, no BAR, no host port, no other latch line, no
primitive but the one the flow names, and no byte of `MEM` but the one that a store of S8 is at; the BAR operations touch
no flow, no latch line, no primitive, no other BAR, no other host port, and no byte of `MEM` but the granule that the
write-back of BWRITE is at. Neither changes a parameter, and if one halts the block, the unit it names is its own (rules
R120, R203, R228). -/
def Obligations.UnitsTouchOnlyTheirOwn : Prop :=
  ∀ (i : Instr) (s t : State), exec i s = .next t → t.cfg = s.cfg ∧
    (i.ofFlow = true →
      (∀ g, g ≠ s.bus.flow → t.flow g = s.flow g) ∧ (∀ b, t.bar b = s.bar b) ∧ (∀ h, t.port h = s.port h) ∧
      (∀ l, l ≠ s.actor.conf.latch → t.latch l = s.latch l) ∧
      (∀ x, x ≠ s.actor.conf.xid → s.actor.inflight ≠ .xacq x → t.owner x = s.owner x) ∧
      (∀ a, t.byteAt a = s.byteAt a ∨ (i = .s8DeserIn ∧ s.actor.pc = 8#4 ∧
        ∃ k v rest, s.actor.work = .store k (v :: rest) ∧ a = s.actor.conf.iptr + k ∧ t.byteAt a = v)) ∧
      (t.fatal = true → t.fatalUnit = s.bus.flow)) ∧
    (∀ b v, i = .bnew b ∨ i = .bread b ∨ i = .bwrite b v →
      (∀ f, t.flow f = s.flow f) ∧ (∀ l, t.latch l = s.latch l) ∧ (∀ x, t.owner x = s.owner x) ∧
      (∀ c, c ≠ b.toNat → t.bar c = s.bar c) ∧ (∀ h, h ≠ s.bus.hport → t.port h = s.port h) ∧
      (∀ a, t.byteAt a = s.byteAt a ∨ (i = .bwrite b v ∧ ∃ old, (s.port s.bus.hport).pending = .bwrite b v old ∧
        granuleBase s.cfg (s.addrOf b.toNat) ≤ a ∧ a < granuleBase s.cfg (s.addrOf b.toNat) + old.length)) ∧
      (t.fatal = true → t.fatalUnit = b.toNat))

/-- One whole fault-free cycle, for every configuration and every length of the buffers: from a boundary where the
wait is over, when no other agent steps in and the environment answers rightly, the flow comes back to step 1 with
exactly the events of rule R174, the output bytes of the transport's write being those of the OUT buffer, the sampled
bytes in the IN buffer and no other byte of `MEM` changed, the latch low, the primitive free, the timer full (rules
R174, R179). One event a byte is the spec's decision D26; inputs and units of time are log 4 and log 18. -/
def Obligations.WholeCycle : Prop :=
  ∀ (s : State) (f : Nat) (data : List Byte) (rest : List Input), Inv s → s.clean → (s.flow f).phase = .live →
    (s.flow f).pc = 1#4 → ((s.flow f).timer = 0 ∨ (s.flow f).trig = true) → s.ctxFree f = true →
    ((s.flow f).conf.xp = true → s.owner (s.flow f).conf.xid = none) →
    (∀ h b v old, (s.port h).pending ≠ .bwrite b v old) → data.length = (s.flow f).conf.ilen →
    s.script = cycleInputs s.cfg f (s.flow f).conf data ++ rest →
    ∃ t, Host.Core.run core (cycleInputs s.cfg f (s.flow f).conf data).length s = .next t ∧ t.script = rest ∧
      t.trace = s.trace ++ cycleEvents s.cfg f (s.flow f).conf (if (s.flow f).trig then .trigger else .period)
        ((List.range (s.flow f).conf.olen).map fun k => s.byteAt ((s.flow f).conf.optr + k)) data ∧
      (t.flow f).conf = (s.flow f).conf ∧ (t.flow f).phase = .live ∧ (t.flow f).pc = 1#4 ∧
      (t.flow f).trig = false ∧ (t.flow f).held = false ∧ (t.flow f).timer = (s.flow f).conf.period ∧
      (t.flow f).inflight = .none ∧ t.latch (s.flow f).conf.latch = .low ∧
      (∀ a, t.byteAt a =
        if (s.flow f).conf.ip = true ∧ (s.flow f).conf.iptr ≤ a ∧ a < (s.flow f).conf.iptr + (s.flow f).conf.ilen
        then data.getD (a - (s.flow f).conf.iptr) 0#8 else s.byteAt a) ∧
      (∀ x, t.owner x = s.owner x) ∧ (∀ g, g ≠ f → t.flow g = s.flow g) ∧ (∀ b, t.bar b = s.bar b) ∧
      (∀ l, l ≠ (s.flow f).conf.latch → t.latch l = s.latch l) ∧ t.fatal = false ∧ t.refused = false

/-- A cycle completes, again and again, for every live flow of every run without end in which the four fairness
assumptions of rule R199 hold, whatever else the host and the environment do in between: from any moment on there is a
later one at which the flow is in step 12 and goes back to step 1 (rules R160, R172, R199). The assumptions are the
spec's decision D29 and no more is assumed of the environment; that a sequencer goes on getting turns, and how a run is
written down, is log 27, an execution context for each flow the default of D24. -/
def Obligations.FairFlowsKeepCycling : Prop :=
  ∀ (x : Nat → Input) (r : Nat → State), Run x r → FairPeriods r → FairHolds r → FairAnswers r → FairGrants r →
    TurnsForAll x r → OwnContexts r →
    ∀ f n, ((r n).flow f).phase = .live →
      ∃ m, n ≤ m ∧ ((r m).flow f).pc = 12#4 ∧ ((r (m + 1)).flow f).pc = 1#4 ∧ ((r (m + 1)).flow f).phase = .live
end

