-- ==== Sys2Proof/Laws/Encode.lean ====
section
/-! SUPPORT. The bits and the fields of a command word made of its fields (rules R92, R103), and which class of
operation each decoder gives. -/

namespace Sys2Proof

/-- Every bit of a command word: `V`, the zeros, `ID`, `OP`. -/
theorem hostWord_bit (op : BitVec 4) (id : Id) (v : Bool) (i : Nat) :
    (hostWord op id v).getLsbD i =
      if i = 0 then v else if i < 16 then false else if i < 28 then id.getLsbD (i - 16) else op.getLsbD (i - 28) := by
  unfold hostWord
  simp only [BitVec.getLsbD_append]
  rcases Nat.lt_or_ge i 1 with h | h
  · obtain rfl : i = 0 := by omega
    cases v <;> rfl
  · rw [if_neg (show ¬ i = 0 by omega), if_neg (show ¬ i < 1 by omega)]
    by_cases h1 : i < 16
    · rw [if_pos h1, if_pos (by omega)]; simp
    · rw [if_neg h1, if_neg (by omega)]
      by_cases h2 : i < 28
      · rw [if_pos h2, if_pos (by omega)]; congr 1
      · rw [if_neg h2, if_neg (by omega)]; congr 1

/-- The fields of a command word are those it was made of. -/
theorem hostWord_fields (op : BitVec 4) (id : Id) (v : Bool) :
    hostOp (hostWord op id v) = op ∧ hostId (hostWord op id v) = id ∧ hostZero (hostWord op id v) = 0#15 ∧
    hostV (hostWord op id v) = v := by
  refine ⟨?_, ?_, ?_, by rw [hostV, hostWord_bit, if_pos rfl]⟩ <;> apply BitVec.eq_of_getLsbD_eq <;> intro i hi
  · rw [hostOp, BitVec.getLsbD_extractLsb', hostWord_bit]
    simp [hi, show ¬ 28 + i < 16 by omega]
  · rw [hostId, BitVec.getLsbD_extractLsb', hostWord_bit]
    simp [hi, show 16 + i < 28 by omega]
  · rw [hostZero, BitVec.getLsbD_extractLsb', hostWord_bit]
    simp; omega

/-- A command word under the masks of the opcode table, which leave out `ID`, and `ID` with `V`. -/
theorem hostWord_and (op : BitVec 4) (id : Id) (v : Bool) :
    hostWord op id v &&& 0xF000FFFF#32 = hostWord op 0#12 v ∧
    hostWord op id v &&& 0xF000FFFE#32 = hostWord op 0#12 false := by
  constructor <;> apply BitVec.eq_of_getLsbD_eq <;> intro i hi <;> rw [BitVec.getLsbD_and, hostWord_bit, hostWord_bit]
  · have hm : ∀ j < 32, (0xF000FFFF#32).getLsbD j = (decide (j < 16) || decide (28 ≤ j)) := by decide
    rw [hm i hi]
    split_ifs <;> simp <;> omega
  · have hm : ∀ j < 32, (0xF000FFFE#32).getLsbD j = (decide (1 ≤ j ∧ j < 16) || decide (28 ≤ j)) := by decide
    rw [hm i hi]
    split_ifs <;> simp <;> omega

/-- The decoder of command words gives host operations only (rules R91, R92). -/
theorem decodeH_class {w : HostWord} {i : Instr} (h : decodeH w = .ok i) :
    (∃ b, i = .bnew b ∨ i = .bread b ∨ (∃ v, i = .bwrite b v)) ∨ ∃ f, i = .fnew f ∨ i = .finit f ∨ i = .ftrig f := by
  have hz : ∀ j, needsZeroV (hostV w) j = .ok i → i = j := fun j hj => by
    unfold needsZeroV at hj
    split at hj <;> cases hj
    rfl
  unfold decodeH at h
  split at h
  · cases h
  split at h
  · exact .inl ⟨_, .inl (hz _ h)⟩
  split at h
  · exact .inl ⟨_, .inr (.inl (hz _ h))⟩
  split at h
  · cases h; exact .inl ⟨_, .inr (.inr ⟨_, rfl⟩)⟩
  split at h
  · exact .inr ⟨_, .inl (hz _ h)⟩
  split at h
  · exact .inr ⟨_, .inr (.inl (hz _ h))⟩
  split at h
  · exact .inr ⟨_, .inr (.inr (hz _ h))⟩
  · cases h

/-- The decoder of step codes gives the twelve steps only (rules R91, R96). -/
theorem decodeS_class {c : StepCode} {i : Instr} (h : decodeS c = .ok i) :
    i ∈ [.s1Wait, .s2Acq, .s3LatchLow, .s4SerOut, .s5Filler, .s6SettlePre, .s7LatchHigh, .s8DeserIn, .s9SettlePost,
      .s10LatchLow, .s11Rel, Instr.s12Loop] := by
  have : ∀ c : StepCode, (match decodeS c with
      | .ok j => decide (j ∈ [.s1Wait, .s2Acq, .s3LatchLow, .s4SerOut, .s5Filler, .s6SettlePre, .s7LatchHigh, .s8DeserIn,
          .s9SettlePost, .s10LatchLow, .s11Rel, Instr.s12Loop])
      | .error _ => true) = true := by decide
  have hc := this c
  rw [h] at hc
  exact of_decide_eq_true hc

/-- The decoder of port codes gives the seven port operations only (rules R91, R97). -/
theorem decodeP_class {c : PortCode} {i : Instr} (h : decodeP c = .ok i) :
    i ∈ [.lclr, .lset, .topen, .twrite, .tread, .xacq, Instr.xrel] := by
  have : ∀ c : PortCode, (match decodeP c with
      | .ok j => decide (j ∈ [.lclr, .lset, .topen, .twrite, .tread, .xacq, Instr.xrel])
      | .error _ => true) = true := by decide
  have hc := this c
  rw [h] at hc
  exact of_decide_eq_true hc

end Sys2Proof
end

