-- ==== Sys2Proof/Laws/Table.lean ====
section
/-! SUPPORT. Tables: reading after listing, and the canonical form kept. -/

namespace Sys2Proof.Machine

variable {α : Type}

/-- What is read after a value was listed: that value at its number, and elsewhere what was read before. -/
theorem tableFind_tablePut (t : List (Nat × α)) (a b : Nat) (v : α) :
    tableFind (tablePut t a v) b = if b = a then some v else tableFind t b := by
  induction t with
  | nil => simp [tablePut, tableFind]
  | cons x rest ih =>
    obtain ⟨k, w⟩ := x
    by_cases h1 : a < k
    · simp only [tablePut, h1, if_true, tableFind]
    · by_cases h2 : a = k
      · subst h2; simp only [tablePut, h1, if_false, if_true, tableFind]; split <;> rfl
      · simp only [tablePut, h1, h2, if_false, tableFind, ih]
        by_cases h3 : b = k
        · simp [h3, Ne.symm h2]
        · simp [h3]

/-- What a number has is one of the values listed. -/
theorem find_mem {t : List (Nat × α)} {a : Nat} {v : α} (h : tableFind t a = some v) : (a, v) ∈ t := by
  induction t with
  | nil => cases h
  | cons e rest ih =>
    obtain ⟨k, w⟩ := e
    rw [tableFind] at h
    split at h
    · cases h; subst_vars; exact List.mem_cons_self
    · exact List.mem_cons_of_mem _ (ih h)

/-- A listed number is the one just listed, or was listed before. -/
theorem mem_tablePut {t : List (Nat × α)} {a : Nat} {v : α} {x : Nat × α} (h : x ∈ tablePut t a v) :
    x = (a, v) ∨ x ∈ t := by
  induction t with
  | nil => simpa [tablePut] using h
  | cons y rest ih =>
    obtain ⟨k, w⟩ := y
    simp only [tablePut] at h
    split at h
    · simpa using h
    · split at h
      · rcases List.mem_cons.1 h with h | h
        · exact .inl h
        · exact .inr (List.mem_cons_of_mem _ h)
      · rcases List.mem_cons.1 h with h | h
        · exact .inr (h ▸ List.mem_cons_self)
        · exact (ih h).imp id (List.mem_cons_of_mem _)

/-- Listing a value keeps the numbers rising. -/
theorem tableSorted_tablePut {t : List (Nat × α)} (h : tableSorted t) (a : Nat) (v : α) :
    tableSorted (tablePut t a v) := by
  induction t with
  | nil => simp [tablePut, tableSorted]
  | cons x rest ih =>
    obtain ⟨k, w⟩ := x
    obtain ⟨hk, hr⟩ := List.pairwise_cons.1 h
    simp only [tablePut]
    split
    · rename_i hlt
      refine List.pairwise_cons.2 ⟨fun y hy => ?_, h⟩
      rcases List.mem_cons.1 hy with rfl | hy
      · exact hlt
      · exact lt_trans hlt (hk y hy)
    · split
      · rename_i heq
        exact List.pairwise_cons.2 ⟨fun y hy => heq ▸ hk y hy, hr⟩
      · rename_i hlt heq
        refine List.pairwise_cons.2 ⟨fun y hy => ?_, ih hr⟩
        rcases mem_tablePut hy with rfl | hy
        · show k < a
          omega
        · exact hk y hy

end Sys2Proof.Machine
end

