-- ==== Sys2Proof/Laws/State.lean ====
section
/-! SUPPORT. What each named update of the state leaves alone: one lemma per field and accessor, all true by
unfolding, and what each update writes. -/

namespace Sys2Proof.Machine

variable (s : State)


/-! `State.setBar`. -/

@[simp] theorem State.setBar_cfg (b : Nat) (v : Bar) : (s.setBar b v).cfg = s.cfg := rfl
@[simp] theorem State.setBar_flows (b : Nat) (v : Bar) : (s.setBar b v).flows = s.flows := rfl
@[simp] theorem State.setBar_latches (b : Nat) (v : Bar) : (s.setBar b v).latches = s.latches := rfl
@[simp] theorem State.setBar_owners (b : Nat) (v : Bar) : (s.setBar b v).owners = s.owners := rfl
@[simp] theorem State.setBar_mem (b : Nat) (v : Bar) : (s.setBar b v).mem = s.mem := rfl
@[simp] theorem State.setBar_fatal (b : Nat) (v : Bar) : (s.setBar b v).fatal = s.fatal := rfl
@[simp] theorem State.setBar_fatalCause (b : Nat) (v : Bar) : (s.setBar b v).fatalCause = s.fatalCause := rfl
@[simp] theorem State.setBar_fatalUnit (b : Nat) (v : Bar) : (s.setBar b v).fatalUnit = s.fatalUnit := rfl
@[simp] theorem State.setBar_trace (b : Nat) (v : Bar) : (s.setBar b v).trace = s.trace := rfl
@[simp] theorem State.setBar_refused (b : Nat) (v : Bar) : (s.setBar b v).refused = s.refused := rfl
@[simp] theorem State.setBar_refusedWhy (b : Nat) (v : Bar) : (s.setBar b v).refusedWhy = s.refusedWhy := rfl
@[simp] theorem State.setBar_ports (b : Nat) (v : Bar) : (s.setBar b v).ports = s.ports := rfl
@[simp] theorem State.setBar_writes (b : Nat) (v : Bar) : (s.setBar b v).writes = s.writes := rfl
@[simp] theorem State.setBar_bus (b : Nat) (v : Bar) : (s.setBar b v).bus = s.bus := rfl
@[simp] theorem State.setBar_script (b : Nat) (v : Bar) : (s.setBar b v).script = s.script := rfl
@[simp] theorem State.setBar_draws (b : Nat) (v : Bar) : (s.setBar b v).draws = s.draws := rfl
@[simp] theorem State.setBar_flow (b : Nat) (v : Bar) (k : Nat) : (s.setBar b v).flow k = s.flow k := rfl
@[simp] theorem State.setBar_latch (b : Nat) (v : Bar) (k : Nat) : (s.setBar b v).latch k = s.latch k := rfl
@[simp] theorem State.setBar_owner (b : Nat) (v : Bar) (k : Nat) : (s.setBar b v).owner k = s.owner k := rfl
@[simp] theorem State.setBar_port (b : Nat) (v : Bar) (k : Nat) : (s.setBar b v).port k = s.port k := rfl
@[simp] theorem State.setBar_byteAt (b : Nat) (v : Bar) (k : Nat) : (s.setBar b v).byteAt k = s.byteAt k := rfl

/-! `State.setFlow`. -/

@[simp] theorem State.setFlow_cfg (f : Nat) (v : Flow) : (s.setFlow f v).cfg = s.cfg := rfl
@[simp] theorem State.setFlow_bars (f : Nat) (v : Flow) : (s.setFlow f v).bars = s.bars := rfl
@[simp] theorem State.setFlow_latches (f : Nat) (v : Flow) : (s.setFlow f v).latches = s.latches := rfl
@[simp] theorem State.setFlow_owners (f : Nat) (v : Flow) : (s.setFlow f v).owners = s.owners := rfl
@[simp] theorem State.setFlow_mem (f : Nat) (v : Flow) : (s.setFlow f v).mem = s.mem := rfl
@[simp] theorem State.setFlow_fatal (f : Nat) (v : Flow) : (s.setFlow f v).fatal = s.fatal := rfl
@[simp] theorem State.setFlow_fatalCause (f : Nat) (v : Flow) : (s.setFlow f v).fatalCause = s.fatalCause := rfl
@[simp] theorem State.setFlow_fatalUnit (f : Nat) (v : Flow) : (s.setFlow f v).fatalUnit = s.fatalUnit := rfl
@[simp] theorem State.setFlow_trace (f : Nat) (v : Flow) : (s.setFlow f v).trace = s.trace := rfl
@[simp] theorem State.setFlow_refused (f : Nat) (v : Flow) : (s.setFlow f v).refused = s.refused := rfl
@[simp] theorem State.setFlow_refusedWhy (f : Nat) (v : Flow) : (s.setFlow f v).refusedWhy = s.refusedWhy := rfl
@[simp] theorem State.setFlow_ports (f : Nat) (v : Flow) : (s.setFlow f v).ports = s.ports := rfl
@[simp] theorem State.setFlow_writes (f : Nat) (v : Flow) : (s.setFlow f v).writes = s.writes := rfl
@[simp] theorem State.setFlow_bus (f : Nat) (v : Flow) : (s.setFlow f v).bus = s.bus := rfl
@[simp] theorem State.setFlow_script (f : Nat) (v : Flow) : (s.setFlow f v).script = s.script := rfl
@[simp] theorem State.setFlow_draws (f : Nat) (v : Flow) : (s.setFlow f v).draws = s.draws := rfl
@[simp] theorem State.setFlow_bar (f : Nat) (v : Flow) (k : Nat) : (s.setFlow f v).bar k = s.bar k := rfl
@[simp] theorem State.setFlow_latch (f : Nat) (v : Flow) (k : Nat) : (s.setFlow f v).latch k = s.latch k := rfl
@[simp] theorem State.setFlow_owner (f : Nat) (v : Flow) (k : Nat) : (s.setFlow f v).owner k = s.owner k := rfl
@[simp] theorem State.setFlow_port (f : Nat) (v : Flow) (k : Nat) : (s.setFlow f v).port k = s.port k := rfl
@[simp] theorem State.setFlow_byteAt (f : Nat) (v : Flow) (k : Nat) : (s.setFlow f v).byteAt k = s.byteAt k := rfl
@[simp] theorem State.setFlow_addrOf (f : Nat) (v : Flow) (k : Nat) : (s.setFlow f v).addrOf k = s.addrOf k := rfl
@[simp] theorem State.setFlow_bitOf (f : Nat) (v : Flow) (k : Nat) : (s.setFlow f v).bitOf k = s.bitOf k := rfl

/-! `State.setLatch`. -/

@[simp] theorem State.setLatch_cfg (l : Nat) (v : Level) : (s.setLatch l v).cfg = s.cfg := rfl
@[simp] theorem State.setLatch_bars (l : Nat) (v : Level) : (s.setLatch l v).bars = s.bars := rfl
@[simp] theorem State.setLatch_flows (l : Nat) (v : Level) : (s.setLatch l v).flows = s.flows := rfl
@[simp] theorem State.setLatch_owners (l : Nat) (v : Level) : (s.setLatch l v).owners = s.owners := rfl
@[simp] theorem State.setLatch_mem (l : Nat) (v : Level) : (s.setLatch l v).mem = s.mem := rfl
@[simp] theorem State.setLatch_fatal (l : Nat) (v : Level) : (s.setLatch l v).fatal = s.fatal := rfl
@[simp] theorem State.setLatch_fatalCause (l : Nat) (v : Level) : (s.setLatch l v).fatalCause = s.fatalCause := rfl
@[simp] theorem State.setLatch_fatalUnit (l : Nat) (v : Level) : (s.setLatch l v).fatalUnit = s.fatalUnit := rfl
@[simp] theorem State.setLatch_trace (l : Nat) (v : Level) : (s.setLatch l v).trace = s.trace := rfl
@[simp] theorem State.setLatch_refused (l : Nat) (v : Level) : (s.setLatch l v).refused = s.refused := rfl
@[simp] theorem State.setLatch_refusedWhy (l : Nat) (v : Level) : (s.setLatch l v).refusedWhy = s.refusedWhy := rfl
@[simp] theorem State.setLatch_ports (l : Nat) (v : Level) : (s.setLatch l v).ports = s.ports := rfl
@[simp] theorem State.setLatch_writes (l : Nat) (v : Level) : (s.setLatch l v).writes = s.writes := rfl
@[simp] theorem State.setLatch_bus (l : Nat) (v : Level) : (s.setLatch l v).bus = s.bus := rfl
@[simp] theorem State.setLatch_script (l : Nat) (v : Level) : (s.setLatch l v).script = s.script := rfl
@[simp] theorem State.setLatch_draws (l : Nat) (v : Level) : (s.setLatch l v).draws = s.draws := rfl
@[simp] theorem State.setLatch_bar (l : Nat) (v : Level) (k : Nat) : (s.setLatch l v).bar k = s.bar k := rfl
@[simp] theorem State.setLatch_flow (l : Nat) (v : Level) (k : Nat) : (s.setLatch l v).flow k = s.flow k := rfl
@[simp] theorem State.setLatch_owner (l : Nat) (v : Level) (k : Nat) : (s.setLatch l v).owner k = s.owner k := rfl
@[simp] theorem State.setLatch_port (l : Nat) (v : Level) (k : Nat) : (s.setLatch l v).port k = s.port k := rfl
@[simp] theorem State.setLatch_byteAt (l : Nat) (v : Level) (k : Nat) : (s.setLatch l v).byteAt k = s.byteAt k := rfl
@[simp] theorem State.setLatch_addrOf (l : Nat) (v : Level) (k : Nat) : (s.setLatch l v).addrOf k = s.addrOf k := rfl
@[simp] theorem State.setLatch_bitOf (l : Nat) (v : Level) (k : Nat) : (s.setLatch l v).bitOf k = s.bitOf k := rfl

/-! `State.setOwner`. -/

@[simp] theorem State.setOwner_cfg (x : Nat) (v : Option Nat) : (s.setOwner x v).cfg = s.cfg := rfl
@[simp] theorem State.setOwner_bars (x : Nat) (v : Option Nat) : (s.setOwner x v).bars = s.bars := rfl
@[simp] theorem State.setOwner_flows (x : Nat) (v : Option Nat) : (s.setOwner x v).flows = s.flows := rfl
@[simp] theorem State.setOwner_latches (x : Nat) (v : Option Nat) : (s.setOwner x v).latches = s.latches := rfl
@[simp] theorem State.setOwner_mem (x : Nat) (v : Option Nat) : (s.setOwner x v).mem = s.mem := rfl
@[simp] theorem State.setOwner_fatal (x : Nat) (v : Option Nat) : (s.setOwner x v).fatal = s.fatal := rfl
@[simp] theorem State.setOwner_fatalCause (x : Nat) (v : Option Nat) : (s.setOwner x v).fatalCause = s.fatalCause := rfl
@[simp] theorem State.setOwner_fatalUnit (x : Nat) (v : Option Nat) : (s.setOwner x v).fatalUnit = s.fatalUnit := rfl
@[simp] theorem State.setOwner_trace (x : Nat) (v : Option Nat) : (s.setOwner x v).trace = s.trace := rfl
@[simp] theorem State.setOwner_refused (x : Nat) (v : Option Nat) : (s.setOwner x v).refused = s.refused := rfl
@[simp] theorem State.setOwner_refusedWhy (x : Nat) (v : Option Nat) : (s.setOwner x v).refusedWhy = s.refusedWhy := rfl
@[simp] theorem State.setOwner_ports (x : Nat) (v : Option Nat) : (s.setOwner x v).ports = s.ports := rfl
@[simp] theorem State.setOwner_writes (x : Nat) (v : Option Nat) : (s.setOwner x v).writes = s.writes := rfl
@[simp] theorem State.setOwner_bus (x : Nat) (v : Option Nat) : (s.setOwner x v).bus = s.bus := rfl
@[simp] theorem State.setOwner_script (x : Nat) (v : Option Nat) : (s.setOwner x v).script = s.script := rfl
@[simp] theorem State.setOwner_draws (x : Nat) (v : Option Nat) : (s.setOwner x v).draws = s.draws := rfl
@[simp] theorem State.setOwner_bar (x : Nat) (v : Option Nat) (k : Nat) : (s.setOwner x v).bar k = s.bar k := rfl
@[simp] theorem State.setOwner_flow (x : Nat) (v : Option Nat) (k : Nat) : (s.setOwner x v).flow k = s.flow k := rfl
@[simp] theorem State.setOwner_latch (x : Nat) (v : Option Nat) (k : Nat) : (s.setOwner x v).latch k = s.latch k := rfl
@[simp] theorem State.setOwner_port (x : Nat) (v : Option Nat) (k : Nat) : (s.setOwner x v).port k = s.port k := rfl
@[simp] theorem State.setOwner_byteAt (x : Nat) (v : Option Nat) (k : Nat) : (s.setOwner x v).byteAt k = s.byteAt k := rfl
@[simp] theorem State.setOwner_addrOf (x : Nat) (v : Option Nat) (k : Nat) : (s.setOwner x v).addrOf k = s.addrOf k := rfl
@[simp] theorem State.setOwner_bitOf (x : Nat) (v : Option Nat) (k : Nat) : (s.setOwner x v).bitOf k = s.bitOf k := rfl

/-! `State.setPort`. -/

@[simp] theorem State.setPort_cfg (h : Nat) (v : Port) : (s.setPort h v).cfg = s.cfg := rfl
@[simp] theorem State.setPort_bars (h : Nat) (v : Port) : (s.setPort h v).bars = s.bars := rfl
@[simp] theorem State.setPort_flows (h : Nat) (v : Port) : (s.setPort h v).flows = s.flows := rfl
@[simp] theorem State.setPort_latches (h : Nat) (v : Port) : (s.setPort h v).latches = s.latches := rfl
@[simp] theorem State.setPort_owners (h : Nat) (v : Port) : (s.setPort h v).owners = s.owners := rfl
@[simp] theorem State.setPort_mem (h : Nat) (v : Port) : (s.setPort h v).mem = s.mem := rfl
@[simp] theorem State.setPort_fatal (h : Nat) (v : Port) : (s.setPort h v).fatal = s.fatal := rfl
@[simp] theorem State.setPort_fatalCause (h : Nat) (v : Port) : (s.setPort h v).fatalCause = s.fatalCause := rfl
@[simp] theorem State.setPort_fatalUnit (h : Nat) (v : Port) : (s.setPort h v).fatalUnit = s.fatalUnit := rfl
@[simp] theorem State.setPort_trace (h : Nat) (v : Port) : (s.setPort h v).trace = s.trace := rfl
@[simp] theorem State.setPort_refused (h : Nat) (v : Port) : (s.setPort h v).refused = s.refused := rfl
@[simp] theorem State.setPort_refusedWhy (h : Nat) (v : Port) : (s.setPort h v).refusedWhy = s.refusedWhy := rfl
@[simp] theorem State.setPort_writes (h : Nat) (v : Port) : (s.setPort h v).writes = s.writes := rfl
@[simp] theorem State.setPort_bus (h : Nat) (v : Port) : (s.setPort h v).bus = s.bus := rfl
@[simp] theorem State.setPort_script (h : Nat) (v : Port) : (s.setPort h v).script = s.script := rfl
@[simp] theorem State.setPort_draws (h : Nat) (v : Port) : (s.setPort h v).draws = s.draws := rfl
@[simp] theorem State.setPort_bar (h : Nat) (v : Port) (k : Nat) : (s.setPort h v).bar k = s.bar k := rfl
@[simp] theorem State.setPort_flow (h : Nat) (v : Port) (k : Nat) : (s.setPort h v).flow k = s.flow k := rfl
@[simp] theorem State.setPort_latch (h : Nat) (v : Port) (k : Nat) : (s.setPort h v).latch k = s.latch k := rfl
@[simp] theorem State.setPort_owner (h : Nat) (v : Port) (k : Nat) : (s.setPort h v).owner k = s.owner k := rfl
@[simp] theorem State.setPort_byteAt (h : Nat) (v : Port) (k : Nat) : (s.setPort h v).byteAt k = s.byteAt k := rfl
@[simp] theorem State.setPort_addrOf (h : Nat) (v : Port) (k : Nat) : (s.setPort h v).addrOf k = s.addrOf k := rfl
@[simp] theorem State.setPort_bitOf (h : Nat) (v : Port) (k : Nat) : (s.setPort h v).bitOf k = s.bitOf k := rfl

/-! `State.emit`. -/

@[simp] theorem State.emit_cfg (e : Event) : (s.emit e).cfg = s.cfg := rfl
@[simp] theorem State.emit_bars (e : Event) : (s.emit e).bars = s.bars := rfl
@[simp] theorem State.emit_flows (e : Event) : (s.emit e).flows = s.flows := rfl
@[simp] theorem State.emit_latches (e : Event) : (s.emit e).latches = s.latches := rfl
@[simp] theorem State.emit_owners (e : Event) : (s.emit e).owners = s.owners := rfl
@[simp] theorem State.emit_mem (e : Event) : (s.emit e).mem = s.mem := rfl
@[simp] theorem State.emit_fatal (e : Event) : (s.emit e).fatal = s.fatal := rfl
@[simp] theorem State.emit_fatalCause (e : Event) : (s.emit e).fatalCause = s.fatalCause := rfl
@[simp] theorem State.emit_fatalUnit (e : Event) : (s.emit e).fatalUnit = s.fatalUnit := rfl
@[simp] theorem State.emit_refused (e : Event) : (s.emit e).refused = s.refused := rfl
@[simp] theorem State.emit_refusedWhy (e : Event) : (s.emit e).refusedWhy = s.refusedWhy := rfl
@[simp] theorem State.emit_ports (e : Event) : (s.emit e).ports = s.ports := rfl
@[simp] theorem State.emit_writes (e : Event) : (s.emit e).writes = s.writes := rfl
@[simp] theorem State.emit_bus (e : Event) : (s.emit e).bus = s.bus := rfl
@[simp] theorem State.emit_script (e : Event) : (s.emit e).script = s.script := rfl
@[simp] theorem State.emit_draws (e : Event) : (s.emit e).draws = s.draws := rfl
@[simp] theorem State.emit_bar (e : Event) (k : Nat) : (s.emit e).bar k = s.bar k := rfl
@[simp] theorem State.emit_flow (e : Event) (k : Nat) : (s.emit e).flow k = s.flow k := rfl
@[simp] theorem State.emit_latch (e : Event) (k : Nat) : (s.emit e).latch k = s.latch k := rfl
@[simp] theorem State.emit_owner (e : Event) (k : Nat) : (s.emit e).owner k = s.owner k := rfl
@[simp] theorem State.emit_port (e : Event) (k : Nat) : (s.emit e).port k = s.port k := rfl
@[simp] theorem State.emit_byteAt (e : Event) (k : Nat) : (s.emit e).byteAt k = s.byteAt k := rfl
@[simp] theorem State.emit_addrOf (e : Event) (k : Nat) : (s.emit e).addrOf k = s.addrOf k := rfl
@[simp] theorem State.emit_bitOf (e : Event) (k : Nat) : (s.emit e).bitOf k = s.bitOf k := rfl

/-! `State.raiseFatal`. -/

@[simp] theorem State.raiseFatal_cfg (c : Cause) (u : Nat) : (s.raiseFatal c u).cfg = s.cfg := rfl
@[simp] theorem State.raiseFatal_bars (c : Cause) (u : Nat) : (s.raiseFatal c u).bars = s.bars := rfl
@[simp] theorem State.raiseFatal_flows (c : Cause) (u : Nat) : (s.raiseFatal c u).flows = s.flows := rfl
@[simp] theorem State.raiseFatal_latches (c : Cause) (u : Nat) : (s.raiseFatal c u).latches = s.latches := rfl
@[simp] theorem State.raiseFatal_owners (c : Cause) (u : Nat) : (s.raiseFatal c u).owners = s.owners := rfl
@[simp] theorem State.raiseFatal_mem (c : Cause) (u : Nat) : (s.raiseFatal c u).mem = s.mem := rfl
@[simp] theorem State.raiseFatal_refused (c : Cause) (u : Nat) : (s.raiseFatal c u).refused = s.refused := rfl
@[simp] theorem State.raiseFatal_refusedWhy (c : Cause) (u : Nat) : (s.raiseFatal c u).refusedWhy = s.refusedWhy := rfl
@[simp] theorem State.raiseFatal_ports (c : Cause) (u : Nat) : (s.raiseFatal c u).ports = s.ports := rfl
@[simp] theorem State.raiseFatal_writes (c : Cause) (u : Nat) : (s.raiseFatal c u).writes = s.writes := rfl
@[simp] theorem State.raiseFatal_bus (c : Cause) (u : Nat) : (s.raiseFatal c u).bus = s.bus := rfl
@[simp] theorem State.raiseFatal_script (c : Cause) (u : Nat) : (s.raiseFatal c u).script = s.script := rfl
@[simp] theorem State.raiseFatal_draws (c : Cause) (u : Nat) : (s.raiseFatal c u).draws = s.draws := rfl
@[simp] theorem State.raiseFatal_bar (c : Cause) (u : Nat) (k : Nat) : (s.raiseFatal c u).bar k = s.bar k := rfl
@[simp] theorem State.raiseFatal_flow (c : Cause) (u : Nat) (k : Nat) : (s.raiseFatal c u).flow k = s.flow k := rfl
@[simp] theorem State.raiseFatal_latch (c : Cause) (u : Nat) (k : Nat) : (s.raiseFatal c u).latch k = s.latch k := rfl
@[simp] theorem State.raiseFatal_owner (c : Cause) (u : Nat) (k : Nat) : (s.raiseFatal c u).owner k = s.owner k := rfl
@[simp] theorem State.raiseFatal_port (c : Cause) (u : Nat) (k : Nat) : (s.raiseFatal c u).port k = s.port k := rfl
@[simp] theorem State.raiseFatal_byteAt (c : Cause) (u : Nat) (k : Nat) : (s.raiseFatal c u).byteAt k = s.byteAt k := rfl
@[simp] theorem State.raiseFatal_addrOf (c : Cause) (u : Nat) (k : Nat) : (s.raiseFatal c u).addrOf k = s.addrOf k := rfl
@[simp] theorem State.raiseFatal_bitOf (c : Cause) (u : Nat) (k : Nat) : (s.raiseFatal c u).bitOf k = s.bitOf k := rfl

/-! `State.refuse`. -/

@[simp] theorem State.refuse_cfg (r : Reason) : (s.refuse r).cfg = s.cfg := rfl
@[simp] theorem State.refuse_bars (r : Reason) : (s.refuse r).bars = s.bars := rfl
@[simp] theorem State.refuse_flows (r : Reason) : (s.refuse r).flows = s.flows := rfl
@[simp] theorem State.refuse_latches (r : Reason) : (s.refuse r).latches = s.latches := rfl
@[simp] theorem State.refuse_owners (r : Reason) : (s.refuse r).owners = s.owners := rfl
@[simp] theorem State.refuse_mem (r : Reason) : (s.refuse r).mem = s.mem := rfl
@[simp] theorem State.refuse_fatal (r : Reason) : (s.refuse r).fatal = s.fatal := rfl
@[simp] theorem State.refuse_fatalCause (r : Reason) : (s.refuse r).fatalCause = s.fatalCause := rfl
@[simp] theorem State.refuse_fatalUnit (r : Reason) : (s.refuse r).fatalUnit = s.fatalUnit := rfl
@[simp] theorem State.refuse_trace (r : Reason) : (s.refuse r).trace = s.trace := rfl
@[simp] theorem State.refuse_ports (r : Reason) : (s.refuse r).ports = s.ports := rfl
@[simp] theorem State.refuse_writes (r : Reason) : (s.refuse r).writes = s.writes := rfl
@[simp] theorem State.refuse_bus (r : Reason) : (s.refuse r).bus = s.bus := rfl
@[simp] theorem State.refuse_script (r : Reason) : (s.refuse r).script = s.script := rfl
@[simp] theorem State.refuse_draws (r : Reason) : (s.refuse r).draws = s.draws := rfl
@[simp] theorem State.refuse_bar (r : Reason) (k : Nat) : (s.refuse r).bar k = s.bar k := rfl
@[simp] theorem State.refuse_flow (r : Reason) (k : Nat) : (s.refuse r).flow k = s.flow k := rfl
@[simp] theorem State.refuse_latch (r : Reason) (k : Nat) : (s.refuse r).latch k = s.latch k := rfl
@[simp] theorem State.refuse_owner (r : Reason) (k : Nat) : (s.refuse r).owner k = s.owner k := rfl
@[simp] theorem State.refuse_port (r : Reason) (k : Nat) : (s.refuse r).port k = s.port k := rfl
@[simp] theorem State.refuse_byteAt (r : Reason) (k : Nat) : (s.refuse r).byteAt k = s.byteAt k := rfl
@[simp] theorem State.refuse_addrOf (r : Reason) (k : Nat) : (s.refuse r).addrOf k = s.addrOf k := rfl
@[simp] theorem State.refuse_bitOf (r : Reason) (k : Nat) : (s.refuse r).bitOf k = s.bitOf k := rfl

/-! `State.noteWrite`. -/

@[simp] theorem State.noteWrite_cfg (h a : Nat) (rmw : Bool) : (s.noteWrite h a rmw).cfg = s.cfg := rfl
@[simp] theorem State.noteWrite_bars (h a : Nat) (rmw : Bool) : (s.noteWrite h a rmw).bars = s.bars := rfl
@[simp] theorem State.noteWrite_flows (h a : Nat) (rmw : Bool) : (s.noteWrite h a rmw).flows = s.flows := rfl
@[simp] theorem State.noteWrite_latches (h a : Nat) (rmw : Bool) : (s.noteWrite h a rmw).latches = s.latches := rfl
@[simp] theorem State.noteWrite_owners (h a : Nat) (rmw : Bool) : (s.noteWrite h a rmw).owners = s.owners := rfl
@[simp] theorem State.noteWrite_mem (h a : Nat) (rmw : Bool) : (s.noteWrite h a rmw).mem = s.mem := rfl
@[simp] theorem State.noteWrite_fatal (h a : Nat) (rmw : Bool) : (s.noteWrite h a rmw).fatal = s.fatal := rfl
@[simp] theorem State.noteWrite_fatalCause (h a : Nat) (rmw : Bool) : (s.noteWrite h a rmw).fatalCause = s.fatalCause := rfl
@[simp] theorem State.noteWrite_fatalUnit (h a : Nat) (rmw : Bool) : (s.noteWrite h a rmw).fatalUnit = s.fatalUnit := rfl
@[simp] theorem State.noteWrite_trace (h a : Nat) (rmw : Bool) : (s.noteWrite h a rmw).trace = s.trace := rfl
@[simp] theorem State.noteWrite_refused (h a : Nat) (rmw : Bool) : (s.noteWrite h a rmw).refused = s.refused := rfl
@[simp] theorem State.noteWrite_refusedWhy (h a : Nat) (rmw : Bool) : (s.noteWrite h a rmw).refusedWhy = s.refusedWhy := rfl
@[simp] theorem State.noteWrite_ports (h a : Nat) (rmw : Bool) : (s.noteWrite h a rmw).ports = s.ports := rfl
@[simp] theorem State.noteWrite_bus (h a : Nat) (rmw : Bool) : (s.noteWrite h a rmw).bus = s.bus := rfl
@[simp] theorem State.noteWrite_script (h a : Nat) (rmw : Bool) : (s.noteWrite h a rmw).script = s.script := rfl
@[simp] theorem State.noteWrite_draws (h a : Nat) (rmw : Bool) : (s.noteWrite h a rmw).draws = s.draws := rfl
@[simp] theorem State.noteWrite_bar (h a : Nat) (rmw : Bool) (k : Nat) : (s.noteWrite h a rmw).bar k = s.bar k := rfl
@[simp] theorem State.noteWrite_flow (h a : Nat) (rmw : Bool) (k : Nat) : (s.noteWrite h a rmw).flow k = s.flow k := rfl
@[simp] theorem State.noteWrite_latch (h a : Nat) (rmw : Bool) (k : Nat) : (s.noteWrite h a rmw).latch k = s.latch k := rfl
@[simp] theorem State.noteWrite_owner (h a : Nat) (rmw : Bool) (k : Nat) : (s.noteWrite h a rmw).owner k = s.owner k := rfl
@[simp] theorem State.noteWrite_port (h a : Nat) (rmw : Bool) (k : Nat) : (s.noteWrite h a rmw).port k = s.port k := rfl
@[simp] theorem State.noteWrite_byteAt (h a : Nat) (rmw : Bool) (k : Nat) : (s.noteWrite h a rmw).byteAt k = s.byteAt k := rfl
@[simp] theorem State.noteWrite_addrOf (h a : Nat) (rmw : Bool) (k : Nat) : (s.noteWrite h a rmw).addrOf k = s.addrOf k := rfl
@[simp] theorem State.noteWrite_bitOf (h a : Nat) (rmw : Bool) (k : Nat) : (s.noteWrite h a rmw).bitOf k = s.bitOf k := rfl

/-! `State.synced`. -/

@[simp] theorem State.synced_cfg (a b : Nat) : (s.synced a b).cfg = s.cfg := rfl
@[simp] theorem State.synced_bars (a b : Nat) : (s.synced a b).bars = s.bars := rfl
@[simp] theorem State.synced_flows (a b : Nat) : (s.synced a b).flows = s.flows := rfl
@[simp] theorem State.synced_latches (a b : Nat) : (s.synced a b).latches = s.latches := rfl
@[simp] theorem State.synced_owners (a b : Nat) : (s.synced a b).owners = s.owners := rfl
@[simp] theorem State.synced_mem (a b : Nat) : (s.synced a b).mem = s.mem := rfl
@[simp] theorem State.synced_fatal (a b : Nat) : (s.synced a b).fatal = s.fatal := rfl
@[simp] theorem State.synced_fatalCause (a b : Nat) : (s.synced a b).fatalCause = s.fatalCause := rfl
@[simp] theorem State.synced_fatalUnit (a b : Nat) : (s.synced a b).fatalUnit = s.fatalUnit := rfl
@[simp] theorem State.synced_trace (a b : Nat) : (s.synced a b).trace = s.trace := rfl
@[simp] theorem State.synced_refused (a b : Nat) : (s.synced a b).refused = s.refused := rfl
@[simp] theorem State.synced_refusedWhy (a b : Nat) : (s.synced a b).refusedWhy = s.refusedWhy := rfl
@[simp] theorem State.synced_ports (a b : Nat) : (s.synced a b).ports = s.ports := rfl
@[simp] theorem State.synced_bus (a b : Nat) : (s.synced a b).bus = s.bus := rfl
@[simp] theorem State.synced_script (a b : Nat) : (s.synced a b).script = s.script := rfl
@[simp] theorem State.synced_draws (a b : Nat) : (s.synced a b).draws = s.draws := rfl
@[simp] theorem State.synced_bar (a b : Nat) (k : Nat) : (s.synced a b).bar k = s.bar k := rfl
@[simp] theorem State.synced_flow (a b : Nat) (k : Nat) : (s.synced a b).flow k = s.flow k := rfl
@[simp] theorem State.synced_latch (a b : Nat) (k : Nat) : (s.synced a b).latch k = s.latch k := rfl
@[simp] theorem State.synced_owner (a b : Nat) (k : Nat) : (s.synced a b).owner k = s.owner k := rfl
@[simp] theorem State.synced_port (a b : Nat) (k : Nat) : (s.synced a b).port k = s.port k := rfl
@[simp] theorem State.synced_byteAt (a b : Nat) (k : Nat) : (s.synced a b).byteAt k = s.byteAt k := rfl
@[simp] theorem State.synced_addrOf (a b : Nat) (k : Nat) : (s.synced a b).addrOf k = s.addrOf k := rfl
@[simp] theorem State.synced_bitOf (a b : Nat) (k : Nat) : (s.synced a b).bitOf k = s.bitOf k := rfl

/-! `State.goto`. -/

@[simp] theorem State.goto_cfg (f : Nat) (c : StepCode) : (s.goto f c).cfg = s.cfg := rfl
@[simp] theorem State.goto_bars (f : Nat) (c : StepCode) : (s.goto f c).bars = s.bars := rfl
@[simp] theorem State.goto_latches (f : Nat) (c : StepCode) : (s.goto f c).latches = s.latches := rfl
@[simp] theorem State.goto_owners (f : Nat) (c : StepCode) : (s.goto f c).owners = s.owners := rfl
@[simp] theorem State.goto_mem (f : Nat) (c : StepCode) : (s.goto f c).mem = s.mem := rfl
@[simp] theorem State.goto_fatal (f : Nat) (c : StepCode) : (s.goto f c).fatal = s.fatal := rfl
@[simp] theorem State.goto_fatalCause (f : Nat) (c : StepCode) : (s.goto f c).fatalCause = s.fatalCause := rfl
@[simp] theorem State.goto_fatalUnit (f : Nat) (c : StepCode) : (s.goto f c).fatalUnit = s.fatalUnit := rfl
@[simp] theorem State.goto_trace (f : Nat) (c : StepCode) : (s.goto f c).trace = s.trace := rfl
@[simp] theorem State.goto_refused (f : Nat) (c : StepCode) : (s.goto f c).refused = s.refused := rfl
@[simp] theorem State.goto_refusedWhy (f : Nat) (c : StepCode) : (s.goto f c).refusedWhy = s.refusedWhy := rfl
@[simp] theorem State.goto_ports (f : Nat) (c : StepCode) : (s.goto f c).ports = s.ports := rfl
@[simp] theorem State.goto_writes (f : Nat) (c : StepCode) : (s.goto f c).writes = s.writes := rfl
@[simp] theorem State.goto_bus (f : Nat) (c : StepCode) : (s.goto f c).bus = s.bus := rfl
@[simp] theorem State.goto_script (f : Nat) (c : StepCode) : (s.goto f c).script = s.script := rfl
@[simp] theorem State.goto_draws (f : Nat) (c : StepCode) : (s.goto f c).draws = s.draws := rfl
@[simp] theorem State.goto_bar (f : Nat) (c : StepCode) (k : Nat) : (s.goto f c).bar k = s.bar k := rfl
@[simp] theorem State.goto_latch (f : Nat) (c : StepCode) (k : Nat) : (s.goto f c).latch k = s.latch k := rfl
@[simp] theorem State.goto_owner (f : Nat) (c : StepCode) (k : Nat) : (s.goto f c).owner k = s.owner k := rfl
@[simp] theorem State.goto_port (f : Nat) (c : StepCode) (k : Nat) : (s.goto f c).port k = s.port k := rfl
@[simp] theorem State.goto_byteAt (f : Nat) (c : StepCode) (k : Nat) : (s.goto f c).byteAt k = s.byteAt k := rfl
@[simp] theorem State.goto_addrOf (f : Nat) (c : StepCode) (k : Nat) : (s.goto f c).addrOf k = s.addrOf k := rfl
@[simp] theorem State.goto_bitOf (f : Nat) (c : StepCode) (k : Nat) : (s.goto f c).bitOf k = s.bitOf k := rfl

/-! `State.issue`. -/

@[simp] theorem State.issue_cfg (f : Nat) (p : PortOp) : (s.issue f p).cfg = s.cfg := rfl
@[simp] theorem State.issue_bars (f : Nat) (p : PortOp) : (s.issue f p).bars = s.bars := rfl
@[simp] theorem State.issue_latches (f : Nat) (p : PortOp) : (s.issue f p).latches = s.latches := rfl
@[simp] theorem State.issue_owners (f : Nat) (p : PortOp) : (s.issue f p).owners = s.owners := rfl
@[simp] theorem State.issue_mem (f : Nat) (p : PortOp) : (s.issue f p).mem = s.mem := rfl
@[simp] theorem State.issue_fatal (f : Nat) (p : PortOp) : (s.issue f p).fatal = s.fatal := rfl
@[simp] theorem State.issue_fatalCause (f : Nat) (p : PortOp) : (s.issue f p).fatalCause = s.fatalCause := rfl
@[simp] theorem State.issue_fatalUnit (f : Nat) (p : PortOp) : (s.issue f p).fatalUnit = s.fatalUnit := rfl
@[simp] theorem State.issue_trace (f : Nat) (p : PortOp) : (s.issue f p).trace = s.trace := rfl
@[simp] theorem State.issue_refused (f : Nat) (p : PortOp) : (s.issue f p).refused = s.refused := rfl
@[simp] theorem State.issue_refusedWhy (f : Nat) (p : PortOp) : (s.issue f p).refusedWhy = s.refusedWhy := rfl
@[simp] theorem State.issue_ports (f : Nat) (p : PortOp) : (s.issue f p).ports = s.ports := rfl
@[simp] theorem State.issue_writes (f : Nat) (p : PortOp) : (s.issue f p).writes = s.writes := rfl
@[simp] theorem State.issue_bus (f : Nat) (p : PortOp) : (s.issue f p).bus = s.bus := rfl
@[simp] theorem State.issue_script (f : Nat) (p : PortOp) : (s.issue f p).script = s.script := rfl
@[simp] theorem State.issue_draws (f : Nat) (p : PortOp) : (s.issue f p).draws = s.draws := rfl
@[simp] theorem State.issue_bar (f : Nat) (p : PortOp) (k : Nat) : (s.issue f p).bar k = s.bar k := rfl
@[simp] theorem State.issue_latch (f : Nat) (p : PortOp) (k : Nat) : (s.issue f p).latch k = s.latch k := rfl
@[simp] theorem State.issue_owner (f : Nat) (p : PortOp) (k : Nat) : (s.issue f p).owner k = s.owner k := rfl
@[simp] theorem State.issue_port (f : Nat) (p : PortOp) (k : Nat) : (s.issue f p).port k = s.port k := rfl
@[simp] theorem State.issue_byteAt (f : Nat) (p : PortOp) (k : Nat) : (s.issue f p).byteAt k = s.byteAt k := rfl
@[simp] theorem State.issue_addrOf (f : Nat) (p : PortOp) (k : Nat) : (s.issue f p).addrOf k = s.addrOf k := rfl
@[simp] theorem State.issue_bitOf (f : Nat) (p : PortOp) (k : Nat) : (s.issue f p).bitOf k = s.bitOf k := rfl

/-! `State.answered`. -/

@[simp] theorem State.answered_cfg (f : Nat) : (s.answered f).cfg = s.cfg := rfl
@[simp] theorem State.answered_bars (f : Nat) : (s.answered f).bars = s.bars := rfl
@[simp] theorem State.answered_latches (f : Nat) : (s.answered f).latches = s.latches := rfl
@[simp] theorem State.answered_owners (f : Nat) : (s.answered f).owners = s.owners := rfl
@[simp] theorem State.answered_mem (f : Nat) : (s.answered f).mem = s.mem := rfl
@[simp] theorem State.answered_fatal (f : Nat) : (s.answered f).fatal = s.fatal := rfl
@[simp] theorem State.answered_fatalCause (f : Nat) : (s.answered f).fatalCause = s.fatalCause := rfl
@[simp] theorem State.answered_fatalUnit (f : Nat) : (s.answered f).fatalUnit = s.fatalUnit := rfl
@[simp] theorem State.answered_trace (f : Nat) : (s.answered f).trace = s.trace := rfl
@[simp] theorem State.answered_refused (f : Nat) : (s.answered f).refused = s.refused := rfl
@[simp] theorem State.answered_refusedWhy (f : Nat) : (s.answered f).refusedWhy = s.refusedWhy := rfl
@[simp] theorem State.answered_ports (f : Nat) : (s.answered f).ports = s.ports := rfl
@[simp] theorem State.answered_writes (f : Nat) : (s.answered f).writes = s.writes := rfl
@[simp] theorem State.answered_bus (f : Nat) : (s.answered f).bus = s.bus := rfl
@[simp] theorem State.answered_script (f : Nat) : (s.answered f).script = s.script := rfl
@[simp] theorem State.answered_draws (f : Nat) : (s.answered f).draws = s.draws := rfl
@[simp] theorem State.answered_bar (f : Nat) (k : Nat) : (s.answered f).bar k = s.bar k := rfl
@[simp] theorem State.answered_latch (f : Nat) (k : Nat) : (s.answered f).latch k = s.latch k := rfl
@[simp] theorem State.answered_owner (f : Nat) (k : Nat) : (s.answered f).owner k = s.owner k := rfl
@[simp] theorem State.answered_port (f : Nat) (k : Nat) : (s.answered f).port k = s.port k := rfl
@[simp] theorem State.answered_byteAt (f : Nat) (k : Nat) : (s.answered f).byteAt k = s.byteAt k := rfl
@[simp] theorem State.answered_addrOf (f : Nat) (k : Nat) : (s.answered f).addrOf k = s.addrOf k := rfl
@[simp] theorem State.answered_bitOf (f : Nat) (k : Nat) : (s.answered f).bitOf k = s.bitOf k := rfl

/-! `State.driveLow`. -/

@[simp] theorem State.driveLow_cfg (f : Nat) : (s.driveLow f).cfg = s.cfg := rfl
@[simp] theorem State.driveLow_bars (f : Nat) : (s.driveLow f).bars = s.bars := rfl
@[simp] theorem State.driveLow_flows (f : Nat) : (s.driveLow f).flows = s.flows := rfl
@[simp] theorem State.driveLow_owners (f : Nat) : (s.driveLow f).owners = s.owners := rfl
@[simp] theorem State.driveLow_mem (f : Nat) : (s.driveLow f).mem = s.mem := rfl
@[simp] theorem State.driveLow_fatal (f : Nat) : (s.driveLow f).fatal = s.fatal := rfl
@[simp] theorem State.driveLow_fatalCause (f : Nat) : (s.driveLow f).fatalCause = s.fatalCause := rfl
@[simp] theorem State.driveLow_fatalUnit (f : Nat) : (s.driveLow f).fatalUnit = s.fatalUnit := rfl
@[simp] theorem State.driveLow_refused (f : Nat) : (s.driveLow f).refused = s.refused := rfl
@[simp] theorem State.driveLow_refusedWhy (f : Nat) : (s.driveLow f).refusedWhy = s.refusedWhy := rfl
@[simp] theorem State.driveLow_ports (f : Nat) : (s.driveLow f).ports = s.ports := rfl
@[simp] theorem State.driveLow_writes (f : Nat) : (s.driveLow f).writes = s.writes := rfl
@[simp] theorem State.driveLow_bus (f : Nat) : (s.driveLow f).bus = s.bus := rfl
@[simp] theorem State.driveLow_script (f : Nat) : (s.driveLow f).script = s.script := rfl
@[simp] theorem State.driveLow_draws (f : Nat) : (s.driveLow f).draws = s.draws := rfl
@[simp] theorem State.driveLow_bar (f : Nat) (k : Nat) : (s.driveLow f).bar k = s.bar k := rfl
@[simp] theorem State.driveLow_flow (f : Nat) (k : Nat) : (s.driveLow f).flow k = s.flow k := rfl
@[simp] theorem State.driveLow_owner (f : Nat) (k : Nat) : (s.driveLow f).owner k = s.owner k := rfl
@[simp] theorem State.driveLow_port (f : Nat) (k : Nat) : (s.driveLow f).port k = s.port k := rfl
@[simp] theorem State.driveLow_byteAt (f : Nat) (k : Nat) : (s.driveLow f).byteAt k = s.byteAt k := rfl
@[simp] theorem State.driveLow_addrOf (f : Nat) (k : Nat) : (s.driveLow f).addrOf k = s.addrOf k := rfl
@[simp] theorem State.driveLow_bitOf (f : Nat) (k : Nat) : (s.driveLow f).bitOf k = s.bitOf k := rfl

/-! `State.driveHigh`. -/

@[simp] theorem State.driveHigh_cfg (f : Nat) : (s.driveHigh f).cfg = s.cfg := rfl
@[simp] theorem State.driveHigh_bars (f : Nat) : (s.driveHigh f).bars = s.bars := rfl
@[simp] theorem State.driveHigh_flows (f : Nat) : (s.driveHigh f).flows = s.flows := rfl
@[simp] theorem State.driveHigh_owners (f : Nat) : (s.driveHigh f).owners = s.owners := rfl
@[simp] theorem State.driveHigh_mem (f : Nat) : (s.driveHigh f).mem = s.mem := rfl
@[simp] theorem State.driveHigh_fatal (f : Nat) : (s.driveHigh f).fatal = s.fatal := rfl
@[simp] theorem State.driveHigh_fatalCause (f : Nat) : (s.driveHigh f).fatalCause = s.fatalCause := rfl
@[simp] theorem State.driveHigh_fatalUnit (f : Nat) : (s.driveHigh f).fatalUnit = s.fatalUnit := rfl
@[simp] theorem State.driveHigh_refused (f : Nat) : (s.driveHigh f).refused = s.refused := rfl
@[simp] theorem State.driveHigh_refusedWhy (f : Nat) : (s.driveHigh f).refusedWhy = s.refusedWhy := rfl
@[simp] theorem State.driveHigh_ports (f : Nat) : (s.driveHigh f).ports = s.ports := rfl
@[simp] theorem State.driveHigh_writes (f : Nat) : (s.driveHigh f).writes = s.writes := rfl
@[simp] theorem State.driveHigh_bus (f : Nat) : (s.driveHigh f).bus = s.bus := rfl
@[simp] theorem State.driveHigh_script (f : Nat) : (s.driveHigh f).script = s.script := rfl
@[simp] theorem State.driveHigh_draws (f : Nat) : (s.driveHigh f).draws = s.draws := rfl
@[simp] theorem State.driveHigh_bar (f : Nat) (k : Nat) : (s.driveHigh f).bar k = s.bar k := rfl
@[simp] theorem State.driveHigh_flow (f : Nat) (k : Nat) : (s.driveHigh f).flow k = s.flow k := rfl
@[simp] theorem State.driveHigh_owner (f : Nat) (k : Nat) : (s.driveHigh f).owner k = s.owner k := rfl
@[simp] theorem State.driveHigh_port (f : Nat) (k : Nat) : (s.driveHigh f).port k = s.port k := rfl
@[simp] theorem State.driveHigh_byteAt (f : Nat) (k : Nat) : (s.driveHigh f).byteAt k = s.byteAt k := rfl
@[simp] theorem State.driveHigh_addrOf (f : Nat) (k : Nat) : (s.driveHigh f).addrOf k = s.addrOf k := rfl
@[simp] theorem State.driveHigh_bitOf (f : Nat) (k : Nat) : (s.driveHigh f).bitOf k = s.bitOf k := rfl

/-! `State.release`. -/

@[simp] theorem State.release_cfg (f : Nat) : (s.release f).cfg = s.cfg := rfl
@[simp] theorem State.release_bars (f : Nat) : (s.release f).bars = s.bars := rfl
@[simp] theorem State.release_flows (f : Nat) : (s.release f).flows = s.flows := rfl
@[simp] theorem State.release_latches (f : Nat) : (s.release f).latches = s.latches := rfl
@[simp] theorem State.release_mem (f : Nat) : (s.release f).mem = s.mem := rfl
@[simp] theorem State.release_fatal (f : Nat) : (s.release f).fatal = s.fatal := rfl
@[simp] theorem State.release_fatalCause (f : Nat) : (s.release f).fatalCause = s.fatalCause := rfl
@[simp] theorem State.release_fatalUnit (f : Nat) : (s.release f).fatalUnit = s.fatalUnit := rfl
@[simp] theorem State.release_refused (f : Nat) : (s.release f).refused = s.refused := rfl
@[simp] theorem State.release_refusedWhy (f : Nat) : (s.release f).refusedWhy = s.refusedWhy := rfl
@[simp] theorem State.release_ports (f : Nat) : (s.release f).ports = s.ports := rfl
@[simp] theorem State.release_writes (f : Nat) : (s.release f).writes = s.writes := rfl
@[simp] theorem State.release_bus (f : Nat) : (s.release f).bus = s.bus := rfl
@[simp] theorem State.release_script (f : Nat) : (s.release f).script = s.script := rfl
@[simp] theorem State.release_draws (f : Nat) : (s.release f).draws = s.draws := rfl
@[simp] theorem State.release_bar (f : Nat) (k : Nat) : (s.release f).bar k = s.bar k := rfl
@[simp] theorem State.release_flow (f : Nat) (k : Nat) : (s.release f).flow k = s.flow k := rfl
@[simp] theorem State.release_latch (f : Nat) (k : Nat) : (s.release f).latch k = s.latch k := rfl
@[simp] theorem State.release_port (f : Nat) (k : Nat) : (s.release f).port k = s.port k := rfl
@[simp] theorem State.release_byteAt (f : Nat) (k : Nat) : (s.release f).byteAt k = s.byteAt k := rfl
@[simp] theorem State.release_addrOf (f : Nat) (k : Nat) : (s.release f).addrOf k = s.addrOf k := rfl
@[simp] theorem State.release_bitOf (f : Nat) (k : Nat) : (s.release f).bitOf k = s.bitOf k := rfl

/-! What an update writes. -/

@[simp] theorem State.setBar_bar (b : Nat) (v : Bar) (k : Nat) :
    (s.setBar b v).bar k = if k = b then v else s.bar k := by
  simp only [State.bar, State.setBar, tableFind_tablePut]; split <;> rfl

@[simp] theorem State.setFlow_flow (f : Nat) (v : Flow) (k : Nat) :
    (s.setFlow f v).flow k = if k = f then v else s.flow k := by
  simp only [State.flow, State.setFlow, tableFind_tablePut]; split <;> rfl

@[simp] theorem State.setLatch_latch (l : Nat) (v : Level) (k : Nat) :
    (s.setLatch l v).latch k = if k = l then v else s.latch k := by
  simp only [State.latch, State.setLatch, tableFind_tablePut]; split <;> rfl

@[simp] theorem State.setOwner_owner (x : Nat) (v : Option Nat) (k : Nat) :
    (s.setOwner x v).owner k = if k = x then v else s.owner k := by
  simp only [State.owner, State.setOwner, tableFind_tablePut]; split <;> rfl

@[simp] theorem State.setPort_port (h : Nat) (v : Port) (k : Nat) :
    (s.setPort h v).port k = if k = h then v else s.port k := by
  simp only [State.port, State.setPort, tableFind_tablePut]; split <;> rfl

@[simp] theorem State.goto_flow (f : Nat) (c : StepCode) (k : Nat) :
    (s.goto f c).flow k = if k = f then { s.flow f with pc := c } else s.flow k := by simp [State.goto]

@[simp] theorem State.issue_flow (f : Nat) (p : PortOp) (k : Nat) :
    (s.issue f p).flow k = if k = f then { s.flow f with inflight := p } else s.flow k := by simp [State.issue]

@[simp] theorem State.answered_flow (f : Nat) (k : Nat) :
    (s.answered f).flow k = if k = f then { s.flow f with inflight := .none } else s.flow k := by simp [State.answered]

@[simp] theorem State.driveLow_latch (f : Nat) (k : Nat) :
    (s.driveLow f).latch k = if k = (s.flow f).conf.latch then .low else s.latch k := by simp [State.driveLow]

@[simp] theorem State.driveHigh_latch (f : Nat) (k : Nat) :
    (s.driveHigh f).latch k = if k = (s.flow f).conf.latch then .high else s.latch k := by simp [State.driveHigh]

@[simp] theorem State.release_owner (f : Nat) (k : Nat) :
    (s.release f).owner k = if k = (s.flow f).conf.xid then none else s.owner k := by simp [State.release]

@[simp] theorem State.noteWrite_writes (h a : Nat) (rmw : Bool) : (s.noteWrite h a rmw).writes =
    ⟨wordOf s.cfg a, h, rmw, []⟩ ::
      s.writes.filter fun e => !(e.word == wordOf s.cfg a && e.host == h && e.rmw == rmw) := rfl

@[simp] theorem State.synced_writes (a b : Nat) : (s.synced a b).writes = s.writes.map (Written.shown a b) := rfl

@[simp] theorem State.emit_trace (e : Event) : (s.emit e).trace = s.trace ++ [e] := rfl

@[simp] theorem State.raiseFatal_trace (c : Cause) (u : Nat) : (s.raiseFatal c u).trace = s.trace ++ [.fatal c u] := rfl

@[simp] theorem State.raiseFatal_fatal (c : Cause) (u : Nat) : (s.raiseFatal c u).fatal = true := rfl

@[simp] theorem State.raiseFatal_fatalCause (c : Cause) (u : Nat) : (s.raiseFatal c u).fatalCause = c := rfl

@[simp] theorem State.raiseFatal_fatalUnit (c : Cause) (u : Nat) : (s.raiseFatal c u).fatalUnit = u := rfl

@[simp] theorem State.refuse_refused (r : Reason) : (s.refuse r).refused = true := rfl

@[simp] theorem State.refuse_refusedWhy (r : Reason) : (s.refuse r).refusedWhy = some r := rfl

@[simp] theorem State.driveLow_trace (f : Nat) :
    (s.driveLow f).trace = s.trace ++ [.lclr f (s.flow f).conf.latch] := rfl

@[simp] theorem State.driveHigh_trace (f : Nat) :
    (s.driveHigh f).trace = s.trace ++ [.lset f (s.flow f).conf.latch] := rfl

@[simp] theorem State.release_trace (f : Nat) : (s.release f).trace = s.trace ++ [.xrel f (s.flow f).conf.xid] := rfl

end Sys2Proof.Machine
end

