-- ==== Sys2Proof/Laws/Memory.lean ====
section
/-! SUPPORT. `MEM`: what a write answers and touches, reading after writing, and the canonical form kept by every
memory operation (rules R10, R60, R71). -/

namespace Sys2Proof.Machine

/-- The state with another table of `MEM`. -/
def State.withMem (s : State) (m : List Host.Cell) : State := { s with mem := m }

@[simp] theorem State.withMem_cfg (s : State) (m : List Host.Cell) : (s.withMem m).cfg = s.cfg := rfl
@[simp] theorem State.withMem_bars (s : State) (m : List Host.Cell) : (s.withMem m).bars = s.bars := rfl
@[simp] theorem State.withMem_flows (s : State) (m : List Host.Cell) : (s.withMem m).flows = s.flows := rfl
@[simp] theorem State.withMem_latches (s : State) (m : List Host.Cell) : (s.withMem m).latches = s.latches := rfl
@[simp] theorem State.withMem_owners (s : State) (m : List Host.Cell) : (s.withMem m).owners = s.owners := rfl
@[simp] theorem State.withMem_fatal (s : State) (m : List Host.Cell) : (s.withMem m).fatal = s.fatal := rfl
@[simp] theorem State.withMem_fatalCause (s : State) (m : List Host.Cell) : (s.withMem m).fatalCause = s.fatalCause := rfl
@[simp] theorem State.withMem_fatalUnit (s : State) (m : List Host.Cell) : (s.withMem m).fatalUnit = s.fatalUnit := rfl
@[simp] theorem State.withMem_trace (s : State) (m : List Host.Cell) : (s.withMem m).trace = s.trace := rfl
@[simp] theorem State.withMem_refused (s : State) (m : List Host.Cell) : (s.withMem m).refused = s.refused := rfl
@[simp] theorem State.withMem_refusedWhy (s : State) (m : List Host.Cell) : (s.withMem m).refusedWhy = s.refusedWhy := rfl
@[simp] theorem State.withMem_ports (s : State) (m : List Host.Cell) : (s.withMem m).ports = s.ports := rfl
@[simp] theorem State.withMem_writes (s : State) (m : List Host.Cell) : (s.withMem m).writes = s.writes := rfl
@[simp] theorem State.withMem_bus (s : State) (m : List Host.Cell) : (s.withMem m).bus = s.bus := rfl
@[simp] theorem State.withMem_script (s : State) (m : List Host.Cell) : (s.withMem m).script = s.script := rfl
@[simp] theorem State.withMem_draws (s : State) (m : List Host.Cell) : (s.withMem m).draws = s.draws := rfl
@[simp] theorem State.withMem_bar (s : State) (m : List Host.Cell) (k : Nat) : (s.withMem m).bar k = s.bar k := rfl
@[simp] theorem State.withMem_flow (s : State) (m : List Host.Cell) (k : Nat) : (s.withMem m).flow k = s.flow k := rfl
@[simp] theorem State.withMem_latch (s : State) (m : List Host.Cell) (k : Nat) : (s.withMem m).latch k = s.latch k := rfl
@[simp] theorem State.withMem_owner (s : State) (m : List Host.Cell) (k : Nat) : (s.withMem m).owner k = s.owner k := rfl
@[simp] theorem State.withMem_port (s : State) (m : List Host.Cell) (k : Nat) : (s.withMem m).port k = s.port k := rfl
@[simp] theorem State.withMem_addrOf (s : State) (m : List Host.Cell) (k : Nat) : (s.withMem m).addrOf k = s.addrOf k := rfl
@[simp] theorem State.withMem_bitOf (s : State) (m : List Host.Cell) (k : Nat) : (s.withMem m).bitOf k = s.bitOf k := rfl
@[simp] theorem State.withMem_mem (s : State) (m : List Host.Cell) : (s.withMem m).mem = m := rfl

/-- A read answers the byte at an address that exists, and nothing at any other. -/
theorem memRead_eq_some {s : State} {a : Nat} {v : Byte} :
    s.memRead a = some v ↔ a < 2 ^ s.cfg.addrBits ∧ v = s.byteAt a := by
  unfold State.memRead
  split <;> simp_all [eq_comm]

/-- A write answers exactly at an address that exists, and replaces the table of `MEM` only. -/
theorem memWrite_eq_some {s t : State} {a : Nat} {v : Byte} :
    s.memWrite a v = some t ↔ a < 2 ^ s.cfg.addrBits ∧ t = s.withMem (tablePut s.mem a v) := by
  unfold State.memWrite
  split <;> simp_all [eq_comm, State.withMem]

/-- Reading after listing a byte: that byte there, every other byte as before. -/
theorem byteAt_tablePut (s : State) (a b : Nat) (v : Byte) :
    (s.withMem (tablePut s.mem a v)).byteAt b = if b = a then v else s.byteAt b := by
  simp only [State.byteAt, State.withMem_mem, tableFind_tablePut]
  split <;> rfl

/-- A write keeps the canonical form. -/
theorem memWrite_wf {s t : State} {a : Nat} {v : Byte} (h : s.memWrite a v = some t) (hm : Memory.wf s.mem) :
    Memory.wf t.mem := by
  obtain ⟨-, rfl⟩ := memWrite_eq_some.1 h
  exact tableSorted_tablePut hm a v

/-- `n` bytes from `a` are read exactly when they all exist, and are the bytes there, lowest address first. -/
theorem readBytes_eq_some {s : State} {a n : Nat} {vs : List Byte} :
    s.readBytes a n = some vs ↔
      (∀ i < n, a + i < 2 ^ s.cfg.addrBits) ∧ vs = (List.range n).map fun i => s.byteAt (a + i) := by
  induction n generalizing a vs with
  | zero => simp [State.readBytes, eq_comm]
  | succ n ih =>
    have hr : (List.range (n + 1)).map (fun i => s.byteAt (a + i)) =
        s.byteAt a :: (List.range n).map fun i => s.byteAt (a + 1 + i) := by
      simp [List.range_succ_eq_map, Function.comp_def, Nat.add_assoc, Nat.add_comm 1]
    have hb : (∀ i < n + 1, a + i < 2 ^ s.cfg.addrBits) ↔
        a < 2 ^ s.cfg.addrBits ∧ ∀ i < n, a + 1 + i < 2 ^ s.cfg.addrBits := by
      constructor
      · exact fun h => ⟨by simpa using h 0 (by omega), fun i hi => by simpa [Nat.add_assoc, Nat.add_comm 1] using h (i + 1) (by omega)⟩
      · rintro ⟨h0, h⟩ (_ | i) hi
        · simpa using h0
        · simpa [Nat.add_assoc, Nat.add_comm 1] using h i (by omega)
    rw [hr, hb]
    unfold State.readBytes
    cases h1 : s.memRead a with
    | none =>
      simp only [State.memRead] at h1
      split at h1
      · cases h1
      · rename_i hn; simp [hn]
    | some v =>
      obtain ⟨hv, rfl⟩ := memRead_eq_some.1 h1
      cases h2 : s.readBytes (a + 1) n with
      | none =>
        have h3 := ih (a := a + 1) (vs := (List.range n).map fun i => s.byteAt (a + 1 + i))
        rw [h2] at h3
        simp only [reduceCtorEq, false_iff, not_and] at h3
        simp only [reduceCtorEq, false_iff, not_and]
        exact fun h => ((h3 h.2) trivial).elim
      | some ws =>
        obtain ⟨hw, rfl⟩ := ih.1 h2
        simp only [Option.some.injEq]
        exact ⟨fun h => ⟨⟨hv, hw⟩, h.symm⟩, fun h => h.2.symm⟩

/-- A write of several bytes replaces the table of `MEM` only, keeps its canonical form, and reads back as the bytes
written at their addresses and as before elsewhere. -/
theorem writeBytes_spec {s t : State} {a : Nat} {vs : List Byte} (h : s.writeBytes a vs = some t) :
    (∃ m, t = s.withMem m ∧ (Memory.wf s.mem → Memory.wf m)) ∧
    ∀ b, t.byteAt b = if a ≤ b ∧ b < a + vs.length then vs.getD (b - a) 0#8 else s.byteAt b := by
  induction vs generalizing a s with
  | nil =>
    simp only [State.writeBytes, Option.some.injEq] at h
    subst h
    exact ⟨⟨s.mem, rfl, id⟩, fun b => by rw [if_neg (by simp only [List.length_nil]; omega)]⟩
  | cons v vs ih =>
    simp only [State.writeBytes] at h
    cases h1 : s.memWrite a v with
    | none => simp [h1] at h
    | some u =>
      rw [h1] at h
      obtain ⟨⟨m, rfl, hm⟩, hb⟩ := ih h
      have hwf := memWrite_wf h1
      obtain ⟨-, rfl⟩ := memWrite_eq_some.1 h1
      refine ⟨⟨m, rfl, fun hs => hm (hwf hs)⟩, fun b => ?_⟩
      rw [hb b, byteAt_tablePut]
      by_cases hba : b = a
      · subst hba; simp
      · by_cases hin : a ≤ b ∧ b < a + (v :: vs).length
        · have hin' := hin
          rw [List.length_cons] at hin'
          rw [if_pos ⟨by omega, by omega⟩, if_pos hin]
          obtain ⟨j, rfl⟩ : ∃ j, b = a + 1 + j := ⟨b - (a + 1), by omega⟩
          rw [show a + 1 + j - (a + 1) = j by omega, show a + 1 + j - a = j + 1 by omega, List.getD_cons_succ]
        · have hin' := hin
          rw [List.length_cons] at hin'
          rw [if_neg (by omega), if_neg hin, if_neg hba]

/-- A write of several bytes answers when they all exist. -/
theorem writeBytes_isSome {s : State} {a : Nat} {vs : List Byte} (h : ∀ i < vs.length, a + i < 2 ^ s.cfg.addrBits) :
    ∃ t, s.writeBytes a vs = some t := by
  induction vs generalizing a s with
  | nil => exact ⟨s, rfl⟩
  | cons v vs ih =>
    have h0 : a < 2 ^ s.cfg.addrBits := by simpa using h 0 (by simp)
    have hw : s.memWrite a v = some (s.withMem (tablePut s.mem a v)) := memWrite_eq_some.2 ⟨h0, rfl⟩
    obtain ⟨t, ht⟩ := ih (s := s.withMem (tablePut s.mem a v)) (a := a + 1) (fun i hi => by
      simpa [Nat.add_assoc, Nat.add_comm 1] using h (i + 1) (by simpa using hi))
    exact ⟨t, by simp [State.writeBytes, hw, ht]⟩

end Sys2Proof.Machine
end

