-- ==== Sys2Proof/Laws/Ops.lean ====
section
/-! SUPPORT. What the guards, the shared operations and `fetch` can answer: one lemma each, to be cited instead of
unfolding them, with the other direction, when an agent does act. -/

namespace Sys2Proof.Machine

/-- Past the guard of rule R216 the block has not halted. -/
theorem unlessHalted_next {s t : State} {k : Res} (h : unlessHalted s k = .next t) : s.fatal = false ∧ k = .next t := by
  unfold unlessHalted at h
  split at h
  · cases h
  · exact ⟨by simpa using ‹¬ s.fatal = true›, h⟩

/-- In a block that has not halted the guard of rule R216 does nothing. -/
theorem unlessHalted_of_running {s : State} (h : s.fatal = false) (k : Res) : unlessHalted s k = k := by
  simp [unlessHalted, h]

/-- In a halted block nobody has a step (rule R216). -/
theorem unlessHalted_of_halted {s : State} (h : s.fatal = true) (k : Res) :
    unlessHalted s k = .fault (.halted s.fatalCause s.fatalUnit) := by
  simp [unlessHalted, h]

/-- A free port exists and is in no write-back. -/
theorem portFree_iff {s : State} {h : Nat} :
    s.portFree h = true ↔ h < s.cfg.nPorts ∧ ((s.port h).pending = .none ∨
      ∃ f, (s.port h).pending = .finit f ∧ (s.flow f).inflight ≠ .topen) := by
  unfold State.portFree
  cases (s.port h).pending <;> simp

/-- A host operation that answers a next state left it as it was, on a port that is not free, or acted. -/
theorem onPort_next {s t : State} {k : Res} (h : onPort s k = .next t) :
    s.fatal = false ∧ ((t = s ∧ s.portFree s.bus.hport = false) ∨ (s.portFree s.bus.hport = true ∧ k = .next t)) := by
  obtain ⟨hf, h⟩ := unlessHalted_next h
  refine ⟨hf, ?_⟩
  split at h
  · exact .inr ⟨‹_›, h⟩
  · cases h; exact .inl ⟨rfl, by simpa using ‹¬ s.portFree s.bus.hport = true›⟩

/-- On a free port of a running block a host operation acts. -/
theorem onPort_of_free {s : State} (hf : s.fatal = false) (hp : s.portFree s.bus.hport = true) (k : Res) :
    onPort s k = k := by
  simp [onPort, unlessHalted_of_running hf, hp]

/-- The condition under which a sequencer step acts. -/
abbrev State.stepTaken (s : State) (code : StepCode) (w : PortOp) : Prop :=
  s.actor.phase = .live ∧ s.actor.pc = code ∧ (s.actor.inflight = .none ∨ s.actor.inflight = w) ∧
    s.ctxFree s.bus.flow = true

/-- A sequencer step that answers a next state left it as it was, or acted under its conditions. -/
theorem onStep_next {s t : State} {code : StepCode} {w : PortOp} {k : Nat → Flow → Res}
    (h : onStep code w s k = .next t) :
    s.fatal = false ∧ (t = s ∨ (s.stepTaken code w ∧ k s.bus.flow s.actor = .next t)) := by
  obtain ⟨hf, h⟩ := unlessHalted_next h
  refine ⟨hf, ?_⟩
  split at h
  · exact .inr ⟨‹_›, h⟩
  · cases h; exact .inl rfl

/-- Under its conditions a sequencer step acts. -/
theorem onStep_of_taken {s : State} {code : StepCode} {w : PortOp} (hf : s.fatal = false) (h : s.stepTaken code w)
    (k : Nat → Flow → Res) : onStep code w s k = k s.bus.flow s.actor := by
  unfold onStep
  rw [unlessHalted_of_running hf]
  exact if_pos h

/-- A port operation that answers a next state left it as it was, or acted on the operation in flight. -/
theorem onAnswer_next {s t : State} {code : PortCode} {k : Nat → Flow → Res} (h : onAnswer code s k = .next t) :
    s.fatal = false ∧ (t = s ∨ (s.actor.inflight.code = code ∧ k s.bus.flow s.actor = .next t)) := by
  obtain ⟨hf, h⟩ := unlessHalted_next h
  refine ⟨hf, ?_⟩
  split at h
  · exact .inr ⟨‹_›, h⟩
  · cases h; exact .inl rfl

/-- On the operation in flight a port operation acts. -/
theorem onAnswer_of_inflight {s : State} {code : PortCode} (hf : s.fatal = false) (h : s.actor.inflight.code = code)
    (k : Nat → Flow → Res) : onAnswer code s k = k s.bus.flow s.actor := by
  unfold onAnswer
  rw [unlessHalted_of_running hf]
  exact if_pos h

/-- `ctxFree` says: every other flow of the context waits in S1 or for the grant of S2 (rule R177). -/
theorem ctxFree_iff {s : State} {f : Nat} :
    s.ctxFree f = true ↔ ∀ g < s.cfg.nFlows, g = f ∨ (s.flow g).conf.ctx ≠ (s.flow f).conf.ctx ∨ ¬ (s.flow g).running := by
  simp only [State.ctxFree, List.all_eq_true, List.mem_range, decide_eq_true_eq]

/-- The bit a BAR targets is one of the eight of its byte. -/
theorem bitOf_lt (s : State) (b : Nat) : s.bitOf b < 8 := Nat.mod_lt _ (by decide)

/-- `sharingOk` says: the sharing rules hold against every flow that is not VOID (rule R142). -/
theorem sharingOk_iff {s : State} {r : FlowRecord} :
    s.sharingOk r = true ↔ ∀ g < s.cfg.nFlows, (s.flow g).phase = .void ∨ r.mayShare (s.flow g).conf := by
  simp only [State.sharingOk, List.all_eq_true, List.mem_range, decide_eq_true_eq]

/-- A port is in a write-back over word `w` exactly when it holds one of a BAR in that word. -/
theorem midWrite_iff {s : State} {w h : Nat} :
    s.midWrite w h = true ↔ ∃ b v old, (s.port h).pending = .bwrite b v old ∧
      wordOf s.cfg (s.addrOf b.toNat) = w := by
  unfold State.midWrite
  cases (s.port h).pending <;> simp

/-- No other port is in a write-back over word `w`. -/
theorem othersMidWrite_eq_false {s : State} {w h : Nat} :
    s.othersMidWrite w h = false ↔ ∀ g < s.cfg.nPorts, g ≠ h → s.midWrite w g = false := by
  simp [State.othersMidWrite]

/-- No port is in a write-back over word `w`. -/
theorem anyMidWrite_eq_false {s : State} {w : Nat} :
    s.anyMidWrite w = false ↔ ∀ g < s.cfg.nPorts, s.midWrite w g = false := by
  simp [State.anyMidWrite]

/-- A host write that is no race meets no other write-back and no step 8 over its word, and comes after no write that it
is not ordered after. -/
theorem hostRace_eq_false {s : State} {h a : Nat} {rmw : Bool} :
    s.hostRace h a rmw = false ↔ s.othersMidWrite (wordOf s.cfg a) h = false ∧ s.sampling (wordOf s.cfg a) = false ∧
      s.unordered (wordOf s.cfg a) h rmw = false := by
  simp [State.hostRace, and_assoc]

/-- When a write comes unordered after another context's. -/
theorem unordered_iff {s : State} {w h : Nat} {rmw : Bool} :
    s.unordered w h rmw = true ↔
      ∃ e ∈ s.writes, e.word = w ∧ e.host ≠ h ∧ (e.rmw = true ∨ rmw = true) ∧ h ∉ e.seen := by
  simp [State.unordered, and_assoc]

/-- After host context `a` has synchronised with `b`, no write of `a` is unordered before one of `b`. -/
theorem synced_seen {s : State} {a b : Nat} {e : Written} (h : e ∈ (s.synced a b).writes) (ha : e.host = a) :
    b ∈ e.seen := by
  rw [State.synced_writes, List.mem_map] at h
  obtain ⟨d, -, rfl⟩ := h
  unfold Written.shown at ha ⊢
  split
  · exact List.mem_cons_self
  · rename_i hn
    rw [if_neg hn] at ha
    exact absurd (.inl ha) hn

/-- What a context has written is not unordered before what it writes itself. -/
theorem noteWrite_unordered (s : State) (h a : Nat) (rmw k : Bool) :
    (s.noteWrite h a rmw).unordered (wordOf s.cfg a) h k = true → s.unordered (wordOf s.cfg a) h k = true := by
  rw [unordered_iff, unordered_iff]
  rintro ⟨e, he, hw, hh, hr, hs⟩
  rw [State.noteWrite_writes, List.mem_cons] at he
  rcases he with rfl | he
  · exact absurd rfl hh
  · exact ⟨e, List.mem_of_mem_filter he, hw, hh, hr, hs⟩

/-- A transition of a hold: it begins, it lasts, or it ends. -/
theorem holdStep_next {k : Hold} {n : Nat} {c : StepCode} {s t : State} {f : Nat} {fl : Flow}
    (h : holdStep k n c s f fl = .next t) :
    (fl.inflight = .none ∧ t = s.setFlow f { fl with inflight := .delay k, hold := n }) ∨
    (fl.inflight ≠ .none ∧ fl.hold = 0 ∧
      t = (s.setFlow f { fl with inflight := .none, pc := c }).emit (.delay f k)) ∨
    (fl.inflight ≠ .none ∧ fl.hold ≠ 0 ∧ t = s) := by
  unfold holdStep at h
  split at h
  · cases h; exact .inl ⟨‹_›, rfl⟩
  · split at h
    · cases h; exact .inr (.inl ⟨‹_›, ‹_›, rfl⟩)
    · cases h; exact .inr (.inr ⟨‹_›, ‹_›, rfl⟩)

/-- Taking an input changes the list of inputs or the count of those drawn, and nothing else. -/
theorem takeInput_eq (s : State) : ∃ sc d, takeInput s = { s with script := sc, draws := d } := by
  unfold takeInput
  cases s.script <;> exact ⟨_, _, rfl⟩

/-- What `serve` hands to `exec`: a block that has not halted, and the state of the input but for the port signals. -/
theorem serve_run {x : Input} {s t : State} {i : Instr} (h : serve x s = .run i t) :
    s.fatal = false ∧ ∃ b, t = { s with bus := b } := by
  cases x with
  | restart => simp [serve] at h
  | host p w bar conf =>
    simp only [serve] at h
    split at h
    · cases h
    · refine ⟨by simpa using ‹¬ s.fatal = true›, ?_⟩
      unfold fetchHost at h
      split at h
      · split at h <;> cases h
        exact ⟨_, rfl⟩
      · cases h
  | resume p =>
    simp only [serve] at h
    split at h
    · cases h
    · refine ⟨by simpa using ‹¬ s.fatal = true›, ?_⟩
      unfold fetchResume at h
      split at h <;> cases h
      exact ⟨_, rfl⟩
  | sequencer f =>
    simp only [serve] at h
    split at h
    · cases h
    · refine ⟨by simpa using ‹¬ s.fatal = true›, ?_⟩
      unfold fetchStep at h
      split at h
      · split at h <;> cases h
        exact ⟨_, rfl⟩
      · cases h
  | answer f ok cnt data =>
    simp only [serve] at h
    split at h
    · cases h
    · refine ⟨by simpa using ‹¬ s.fatal = true›, ?_⟩
      unfold fetchAnswer at h
      split at h
      · split at h <;> cases h
        exact ⟨_, rfl⟩
      · cases h
  | tick f => simp [serve] at h
  | ownerWrite p a v => simp [serve] at h
  | bufferGone p n => simp [serve] at h
  | sync a b => simp [serve] at h

/-- Which input selects an operation, and the state the operation runs in: a command word on a free port, the write-back
a port is in the middle of, the step of a live flow's `pc`, or the port operation a flow has in flight. -/
theorem serve_run_cases {x : Input} {s t : State} {i : Instr} (h : serve x s = .run i t) :
    (∃ p w r q, x = .host p w r q ∧ s.portFree p = true ∧ r.fits s.cfg ∧ q.fits s.cfg ∧ decodeH w = .ok i ∧
      t = { s with bus := { s.bus with hport := p, bar := r, conf := q } }) ∨
    (∃ p b v old, x = .resume p ∧ (s.port p).pending = .bwrite b v old ∧ i = .bwrite b v ∧
      t = { s with bus := { s.bus with hport := p } }) ∨
    (∃ f, x = .sequencer f ∧ f < s.cfg.nFlows ∧ (s.flow f).phase = .live ∧ decodeS (s.flow f).pc = .ok i ∧
      t = { s with bus := { s.bus with flow := f } }) ∨
    (∃ f ok cnt data, x = .answer f ok cnt data ∧ f < s.cfg.nFlows ∧ decodeP (s.flow f).inflight.code = .ok i ∧
      t = { s with bus := { s.bus with flow := f, ok := ok, cnt := cnt, data := data } }) := by
  cases x with
  | restart => simp [serve] at h
  | tick f => simp [serve] at h
  | ownerWrite p a v => simp [serve] at h
  | bufferGone p n => simp [serve] at h
  | sync a b => simp [serve] at h
  | host p w r q =>
    simp only [serve] at h
    split at h
    · cases h
    · unfold fetchHost at h
      split at h
      · rename_i hg
        split at h
        · cases h; exact .inl ⟨p, w, r, q, rfl, hg.1, hg.2.1, hg.2.2, ‹_›, rfl⟩
        · cases h
      · cases h
  | resume p =>
    simp only [serve] at h
    split at h
    · cases h
    · unfold fetchResume at h
      split at h
      · cases h; exact .inr (.inl ⟨p, _, _, _, rfl, ‹_›, rfl, rfl⟩)
      · cases h
  | sequencer f =>
    simp only [serve] at h
    split at h
    · cases h
    · unfold fetchStep at h
      split at h
      · rename_i hg
        split at h
        · cases h; exact .inr (.inr (.inl ⟨f, rfl, hg.1, hg.2, ‹_›, rfl⟩))
        · cases h
      · cases h
  | answer f ok cnt data =>
    simp only [serve] at h
    split at h
    · cases h
    · unfold fetchAnswer at h
      split at h
      · split at h
        · cases h; exact .inr (.inr (.inr ⟨f, ok, cnt, data, rfl, ‹_›, ‹_›, rfl⟩))
        · cases h
      · cases h

/-- A direct write of the host that answers a next state waited, or wrote one byte that exists. -/
theorem ownerWrite_next {p a : Nat} {v : Byte} {s t : State} (h : ownerWrite p a v s = .next t) :
    t = s ∨ (s.portFree p = true ∧ s.hostRace p a false = false ∧ (s.noteWrite p a false).memWrite a v = some t) := by
  unfold ownerWrite at h
  split at h
  · split at h
    · cases h
    · split at h
      · cases h
      · cases h
        exact .inr ⟨‹_›, by simpa using ‹¬ s.hostRace p a false = true›, ‹_›⟩
  · cases h; exact .inl rfl

/-- The events that are no operation, and what they answer. -/
theorem serve_done_next {x : Input} {s t : State} (h : serve x s = .done (.next t)) :
    (x = .restart ∧ t = s.restart) ∨
    (x ≠ .restart ∧ s.fatal = false ∧
      (t = s ∨ (∃ r, t = s.refuse r) ∨ (∃ f, f < s.cfg.nFlows ∧ x = .tick f ∧ t = s.setFlow f (s.flow f).tick) ∨
        (∃ a b, x = .sync a b ∧ t = s.synced a b) ∨
        ∃ p a v, x = .ownerWrite p a v ∧ s.portFree p = true ∧ s.hostRace p a false = false ∧
          (s.noteWrite p a false).memWrite a v = some t)) := by
  have hq : ∀ k : Res, Fetched.done k = .done (.next t) → k = .next t := fun k hk => by simpa using hk
  cases x with
  | restart =>
    simp only [serve, Fetched.done.injEq, Host.Outcome.next.injEq] at h
    exact .inl ⟨rfl, h.symm⟩
  | host p w bar conf =>
    simp only [serve] at h
    split at h
    · cases h
    · refine .inr ⟨by simp, by simpa using ‹¬ s.fatal = true›, ?_⟩
      unfold fetchHost at h
      split at h
      · split at h
        · cases h
        · cases hq _ h; exact .inr (.inl ⟨_, rfl⟩)
      · cases h; exact .inl rfl
  | resume p =>
    simp only [serve] at h
    split at h
    · cases h
    · refine .inr ⟨by simp, by simpa using ‹¬ s.fatal = true›, ?_⟩
      unfold fetchResume at h
      split at h <;> cases h
      exact .inl rfl
  | sequencer f =>
    simp only [serve] at h
    split at h
    · cases h
    · refine .inr ⟨by simp, by simpa using ‹¬ s.fatal = true›, ?_⟩
      unfold fetchStep at h
      split at h
      · split at h <;> cases h
      · cases h; exact .inl rfl
  | answer f ok cnt data =>
    simp only [serve] at h
    split at h
    · cases h
    · refine .inr ⟨by simp, by simpa using ‹¬ s.fatal = true›, ?_⟩
      unfold fetchAnswer at h
      split at h
      · split at h <;> cases h
        exact .inl rfl
      · cases h; exact .inl rfl
  | tick f =>
    obtain ⟨hf, h⟩ := unlessHalted_next (hq _ h)
    refine .inr ⟨by simp, hf, ?_⟩
    unfold tickFlow at h
    split at h
    · cases h; exact .inr (.inr (.inl ⟨f, ‹_›, rfl, rfl⟩))
    · cases h; exact .inl rfl
  | ownerWrite p a v =>
    obtain ⟨hf, h⟩ := unlessHalted_next (hq _ h)
    refine .inr ⟨by simp, hf, ?_⟩
    rcases ownerWrite_next h with h | h
    · exact .inl h
    · exact .inr (.inr (.inr (.inr ⟨p, a, v, rfl, h⟩)))
  | bufferGone p n =>
    obtain ⟨hf, h⟩ := unlessHalted_next (hq _ h)
    refine .inr ⟨by simp, hf, ?_⟩
    unfold bufferGone at h
    split at h
    · cases h; exact .inr (.inl ⟨_, rfl⟩)
    · cases h; exact .inl rfl
  | sync a b =>
    obtain ⟨hf, h⟩ := unlessHalted_next (hq _ h)
    cases h
    exact .inr ⟨by simp, hf, .inr (.inr (.inr (.inl ⟨a, b, rfl, rfl⟩)))⟩

/-- A transition is the operation the next input selects, or the event it is. -/
theorem step_cases {s : State} {o : Res} (h : step s = o) :
    (∃ i t, serve (nextInput s) (takeInput s) = .run i t ∧ exec i t = o) ∨
    serve (nextInput s) (takeInput s) = .done o := by
  unfold step fetch at h
  split at h
  · exact .inl ⟨_, _, ‹_›, h⟩
  · subst h; exact .inr ‹_›

end Sys2Proof.Machine
end

