-- ==== Sys2Proof/Laws/Exec.lean ====
section
/-! SUPPORT. Each meaning once past its guard: what the operation of the flow or port whose turn it is answers. Cited
instead of unfolding a meaning; with `onStep_next`, `onAnswer_next` and `onPort_next` for the other direction. -/

namespace Sys2Proof.Machine

/-- A sequencer that is ready for a step, with nothing in flight, takes it. -/
theorem stepTaken_of_ready {s : State} {code : StepCode} (w : PortOp) (h : s.stepReady code .none) :
    s.stepTaken code w := ⟨h.2.1, h.2.2.1, .inl h.2.2.2.1, h.2.2.2.2⟩

/-- A sequencer that is ready for a step, with the step's own operation in flight, takes it. -/
theorem stepTaken_of_waiting {s : State} {code : StepCode} {w : PortOp} (h : s.stepReady code w) :
    s.stepTaken code w := ⟨h.2.1, h.2.2.1, .inr h.2.2.2.1, h.2.2.2.2⟩

variable {s : State}


/-- S1, taken. -/
theorem exec_s1Wait_taken (hf : s.fatal = false) (h : s.stepTaken 1#4 .none) :
    exec .s1Wait s =
      if s.actor.due then
        .next ((s.setFlow s.bus.flow { s.actor.setTrig false with pc := 2#4 }).emit (.wait s.bus.flow s.actor.waitCause))
      else .next s := by
  show execS1Wait s = _
  unfold execS1Wait
  exact onStep_of_taken hf h _

/-- S2, taken. -/
theorem exec_s2Acq_taken (hf : s.fatal = false) (h : s.stepTaken 2#4 .none) :
    exec .s2Acq s =
      if s.actor.conf.xp then .next (s.issue s.bus.flow (.xacq s.actor.conf.xid)) else .next (s.goto s.bus.flow 3#4) := by
  show execS2Acq s = _
  unfold execS2Acq
  exact onStep_of_taken hf h _

/-- S3, taken. -/
theorem exec_s3LatchLow_taken (hf : s.fatal = false) (h : s.stepTaken 3#4 .none) :
    exec .s3LatchLow s =
      .next ((s.driveLow s.bus.flow).goto s.bus.flow 4#4) := by
  show execS3LatchLow s = _
  unfold execS3LatchLow
  exact onStep_of_taken hf h _

/-- S4, taken. -/
theorem exec_s4SerOut_taken (hf : s.fatal = false) (h : s.stepTaken 4#4 .none) :
    exec .s4SerOut s =
      if s.actor.conf.op then
        if s.actor.gathered.length < s.actor.conf.olen then
          match s.memRead (s.actor.conf.optr + s.actor.gathered.length) with
          | none => .fault (.noSuchAddress (s.actor.conf.optr + s.actor.gathered.length))
          | some v => .next (s.setFlow s.bus.flow { s.actor with work := .gather (s.actor.gathered ++ [v]) })
        else .next (s.setFlow s.bus.flow
          { s.actor with work := .idle, inflight := .twrite s.actor.gathered s.actor.conf.olen })
      else .next (s.goto s.bus.flow 5#4) := by
  show execS4SerOut s = _
  unfold execS4SerOut
  exact onStep_of_taken hf h _

/-- S5, taken. -/
theorem exec_s5Filler_taken (hf : s.fatal = false) (h : s.stepTaken 5#4 .none) :
    exec .s5Filler s =
      if s.actor.conf.op = false ∧ s.actor.conf.ip = true then .next (s.issue s.bus.flow (.twrite [s.cfg.filler] 1))
      else .next (s.goto s.bus.flow 6#4) := by
  show execS5Filler s = _
  unfold execS5Filler
  exact onStep_of_taken hf h _

/-- S6, taken. -/
theorem exec_s6SettlePre_taken (hf : s.fatal = false) (h : s.stepTaken 6#4 (.delay .pre)) :
    exec .s6SettlePre s =
      holdStep .pre s.cfg.tSettlePre 7#4 s s.bus.flow s.actor := by
  show execS6SettlePre s = _
  unfold execS6SettlePre
  exact onStep_of_taken hf h _

/-- S7, taken. -/
theorem exec_s7LatchHigh_taken (hf : s.fatal = false) (h : s.stepTaken 7#4 .none) :
    exec .s7LatchHigh s =
      .next ((s.driveHigh s.bus.flow).goto s.bus.flow 8#4) := by
  show execS7LatchHigh s = _
  unfold execS7LatchHigh
  exact onStep_of_taken hf h _

/-- S8, taken. -/
theorem exec_s8DeserIn_taken (hf : s.fatal = false) (h : s.stepTaken 8#4 .none) :
    exec .s8DeserIn s =
      if s.actor.conf.ip then
        match s.actor.work with
        | .store k (v :: rest) =>
          if s.anyMidWrite (wordOf s.cfg (s.actor.conf.iptr + k)) then .fault (.race (s.actor.conf.iptr + k))
          else
            match (s.setFlow s.bus.flow { s.actor with work := .store (k + 1) rest }).memWrite
                (s.actor.conf.iptr + k) v with
            | none => .fault (.noSuchAddress (s.actor.conf.iptr + k))
            | some t => .next t
        | .store _ [] => .next (s.setFlow s.bus.flow { s.actor with work := .idle, pc := 9#4 })
        | _ => .next (s.issue s.bus.flow (.tread s.actor.conf.ilen))
      else .next (s.goto s.bus.flow 9#4) := by
  show execS8DeserIn s = _
  unfold execS8DeserIn
  exact onStep_of_taken hf h _

/-- S9, taken. -/
theorem exec_s9SettlePost_taken (hf : s.fatal = false) (h : s.stepTaken 9#4 (.delay .post)) :
    exec .s9SettlePost s =
      holdStep .post s.cfg.tSettlePost 10#4 s s.bus.flow s.actor := by
  show execS9SettlePost s = _
  unfold execS9SettlePost
  exact onStep_of_taken hf h _

/-- S10, taken. -/
theorem exec_s10LatchLow_taken (hf : s.fatal = false) (h : s.stepTaken 10#4 .none) :
    exec .s10LatchLow s =
      .next ((s.driveLow s.bus.flow).goto s.bus.flow 11#4) := by
  show execS10LatchLow s = _
  unfold execS10LatchLow
  exact onStep_of_taken hf h _

/-- S11, taken. -/
theorem exec_s11Rel_taken (hf : s.fatal = false) (h : s.stepTaken 11#4 .none) :
    exec .s11Rel s =
      if s.actor.held then
        .next ((s.release s.bus.flow).setFlow s.bus.flow { s.actor.setHeld false with pc := 12#4 })
      else .next (s.goto s.bus.flow 12#4) := by
  show execS11Rel s = _
  unfold execS11Rel
  exact onStep_of_taken hf h _

/-- S12, taken. -/
theorem exec_s12Loop_taken (hf : s.fatal = false) (h : s.stepTaken 12#4 .none) :
    exec .s12Loop s =
      .next (s.setFlow s.bus.flow { s.actor.loadTimer with pc := 1#4 }) := by
  show execS12Loop s = _
  unfold execS12Loop
  exact onStep_of_taken hf h _

/-- LCLR, in flight. -/
theorem exec_lclr_inflight (hf : s.fatal = false) (h : s.actor.inflight = .lclr) :
    exec .lclr s = .next ((s.driveLow s.bus.flow).answered s.bus.flow) := by
  show execLclr s = _
  unfold execLclr
  exact onAnswer_of_inflight hf (by rw [h]; rfl) _

/-- LSET, in flight. -/
theorem exec_lset_inflight (hf : s.fatal = false) (h : s.actor.inflight = .lset) :
    exec .lset s = .next ((s.driveHigh s.bus.flow).answered s.bus.flow) := by
  show execLset s = _
  unfold execLset
  exact onAnswer_of_inflight hf (by rw [h]; rfl) _

/-- XREL, in flight. -/
theorem exec_xrel_inflight (hf : s.fatal = false) (h : s.actor.inflight = .xrel) :
    exec .xrel s = .next ((s.release s.bus.flow).answered s.bus.flow) := by
  show execXrel s = _
  unfold execXrel
  exact onAnswer_of_inflight hf (by rw [h]; rfl) _

/-- TOPEN, in flight. -/
theorem exec_topen_inflight (hf : s.fatal = false) (h : s.actor.inflight = .topen) :
    exec .topen s =
      if s.actor.phase = .constructed then
        finitOpened s.bus.flow s.bus.ok
          ((s.answered s.bus.flow).emit (.topen s.bus.flow s.actor.conf.tport s.bus.ok))
      else .next ((s.answered s.bus.flow).emit (.topen s.bus.flow s.actor.conf.tport s.bus.ok)) := by
  show execTopen s = _
  unfold execTopen
  exact onAnswer_of_inflight hf (by rw [h]; rfl) _

/-- TWRITE, in flight. -/
theorem exec_twrite_inflight {bytes : List Byte} {n : Nat} (hf : s.fatal = false)
    (h : s.actor.inflight = .twrite bytes n) :
    exec .twrite s =
      if s.actor.pc = 4#4 then
        s4Written s.bus.flow s.bus.cnt
          ((s.answered s.bus.flow).emit (.twrite s.bus.flow s.actor.conf.tport bytes s.bus.cnt))
      else if s.actor.pc = 5#4 then
        s5Written s.bus.flow s.bus.cnt
          ((s.answered s.bus.flow).emit (.twrite s.bus.flow s.actor.conf.tport bytes s.bus.cnt))
      else .next ((s.answered s.bus.flow).emit (.twrite s.bus.flow s.actor.conf.tport bytes s.bus.cnt)) := by
  show execTwrite s = _
  unfold execTwrite
  rw [onAnswer_of_inflight hf (by rw [h]; rfl)]
  simp only [h]

/-- TREAD, in flight. -/
theorem exec_tread_inflight {n : Nat} (hf : s.fatal = false) (h : s.actor.inflight = .tread n) :
    exec .tread s =
      if s.bus.cnt = n ∧ s.bus.data.length ≠ n then .next s
      else if s.actor.pc = 8#4 then
        s8Answered s.bus.flow s.bus.cnt s.bus.data
          ((s.answered s.bus.flow).emit (.tread s.bus.flow s.actor.conf.tport n s.bus.cnt s.bus.data))
      else .next ((s.answered s.bus.flow).emit (.tread s.bus.flow s.actor.conf.tport n s.bus.cnt s.bus.data)) := by
  show execTread s = _
  unfold execTread
  rw [onAnswer_of_inflight hf (by rw [h]; rfl)]
  simp only [h]

/-- XACQ, in flight. -/
theorem exec_xacq_inflight {x : Nat} (hf : s.fatal = false) (h : s.actor.inflight = .xacq x) :
    exec .xacq s =
      if s.owner x = none ∧ s.ctxFree s.bus.flow = true then
        if s.actor.pc = 2#4 then
          s2Granted s.bus.flow (((s.answered s.bus.flow).setOwner x (some s.bus.flow)).emit (.xacq s.bus.flow x))
        else .next (((s.answered s.bus.flow).setOwner x (some s.bus.flow)).emit (.xacq s.bus.flow x))
      else .next s := by
  show execXacq s = _
  unfold execXacq
  rw [onAnswer_of_inflight hf (by rw [h]; rfl)]
  simp only [h]

/-- Whose code an operation in flight has. -/
theorem inflight_of_code {p : PortOp} :
    (p.code = 1#3 → p = .lclr) ∧ (p.code = 2#3 → p = .lset) ∧ (p.code = 3#3 → p = .topen) ∧
    (p.code = 4#3 → ∃ bytes n, p = .twrite bytes n) ∧ (p.code = 5#3 → ∃ n, p = .tread n) ∧
    (p.code = 6#3 → ∃ x, p = .xacq x) ∧ (p.code = 7#3 → p = .xrel) := by
  cases p <;> simp [PortOp.code]

end Sys2Proof.Machine
end

