-- ==== Sys2Proof/Laws/Moves.lean ====
section
/-! SUPPORT. Everything an operation can do when it answers a next state: it waited, or it made one of the moves
listed here, under the conditions listed with it. A statement about every transition is a case analysis on moves. -/

namespace Sys2Proof.Machine

/-- A move of an operation from a state: the state it leads to, under its conditions. -/
inductive Move (s : State) : Instr → State → Prop where
  | bnewRefuse (b : Id) (r : Reason) : s.portFree s.bus.hport = true → Move s (.bnew b) (s.refuse r)
  | bnewHalt (b : Id) : s.portFree s.bus.hport = true → (s.bar b.toNat).valid = false →
      Move s (.bnew b) (s.raiseFatal .barIndexRange b.toNat)
  | bnewStore (b : Id) : s.portFree s.bus.hport = true → b.toNat < s.cfg.nBars → (s.bar b.toNat).valid = false →
      BarOk s.cfg s.bus.bar → Move s (.bnew b) (s.setBar b.toNat ⟨true, s.bus.bar⟩)
  | breadRefuse (b : Id) (r : Reason) : s.portFree s.bus.hport = true → Move s (.bread b) (s.refuse r)
  | breadAnswer (b : Id) (v : Bool) : s.portFree s.bus.hport = true → s.hasBar b →
      Move s (.bread b) (s.setPort s.bus.hport { s.port s.bus.hport with result := v })
  | bwriteRefuse (b : Id) (v : Bool) (r : Reason) : s.portFree s.bus.hport = true → Move s (.bwrite b v) (s.refuse r)
  | bwriteRead (b : Id) (v : Bool) (old : List Byte) : s.portFree s.bus.hport = true → s.hasBar b →
      s.hostRace s.bus.hport (s.addrOf b.toNat) true = false →
      s.readBytes (granuleBase s.cfg (s.addrOf b.toNat)) s.cfg.granule = some old →
      Move s (.bwrite b v) (s.setPort s.bus.hport { s.port s.bus.hport with pending := .bwrite b v old })
  | bwriteWrite (b : Id) (v : Bool) (old : List Byte) (t : State) : s.bus.hport < s.cfg.nPorts →
      (s.port s.bus.hport).pending = .bwrite b v old →
      s.hostRace s.bus.hport (s.addrOf b.toNat) true = false →
      ((s.setPort s.bus.hport { s.port s.bus.hport with pending := .none }).noteWrite s.bus.hport
        (s.addrOf b.toNat) true).writeBytes
        (granuleBase s.cfg (s.addrOf b.toNat))
        (granuleWith old (s.addrOf b.toNat - granuleBase s.cfg (s.addrOf b.toNat))
          (s.bitOf b.toNat) ((s.bar b.toNat).desc.toRaw s.cfg v)) = some t →
      Move s (.bwrite b v) t
  | fnewRefuse (f : Id) (r : Reason) : s.portFree s.bus.hport = true → Move s (.fnew f) (s.refuse r)
  | fnewHalt (f : Id) : s.portFree s.bus.hport = true → (s.flow f.toNat).phase = .void →
      Move s (.fnew f) (s.raiseFatal .initMisaligned f.toNat)
  | fnewStore (f : Id) : s.portFree s.bus.hport = true → f.toNat < s.cfg.nFlows → (s.flow f.toNat).phase = .void →
      ConfOk s.cfg s.bus.conf → s.sharingOk s.bus.conf = true →
      Move s (.fnew f) (s.setFlow f.toNat ((s.flow f.toNat).construct s.bus.conf))
  | finitRefuse (f : Id) (r : Reason) : s.portFree s.bus.hport = true → Move s (.finit f) (s.refuse r)
  | finitIssue (f : Id) : s.portFree s.bus.hport = true → f.toNat < s.cfg.nFlows →
      (s.flow f.toNat).phase = .constructed → (s.flow f.toNat).inflight = .none →
      Move s (.finit f) ((s.issue f.toNat .topen).setPort s.bus.hport
        { s.port s.bus.hport with pending := .finit f.toNat })
  | ftrigRefuse (f : Id) (r : Reason) : s.portFree s.bus.hport = true → Move s (.ftrig f) (s.refuse r)
  | ftrigSet (f : Id) : s.portFree s.bus.hport = true → f.toNat < s.cfg.nFlows → (s.flow f.toNat).phase = .live →
      Move s (.ftrig f) (s.setFlow f.toNat ((s.flow f.toNat).setTrig true))
  | s1Leave : s.stepTaken 1#4 .none → s.actor.due →
      Move s .s1Wait ((s.setFlow s.bus.flow { s.actor.setTrig false with pc := 2#4 }).emit
        (.wait s.bus.flow s.actor.waitCause))
  | s2Ask : s.stepTaken 2#4 .none → s.actor.conf.xp = true →
      Move s .s2Acq (s.issue s.bus.flow (.xacq s.actor.conf.xid))
  | s2Pass : s.stepTaken 2#4 .none → s.actor.conf.xp = false → Move s .s2Acq (s.goto s.bus.flow 3#4)
  | s3 : s.stepTaken 3#4 .none → Move s .s3LatchLow ((s.driveLow s.bus.flow).goto s.bus.flow 4#4)
  | s4Gather (v : Byte) : s.stepTaken 4#4 .none → s.actor.conf.op = true →
      s.actor.gathered.length < s.actor.conf.olen →
      s.memRead (s.actor.conf.optr + s.actor.gathered.length) = some v →
      Move s .s4SerOut (s.setFlow s.bus.flow { s.actor with work := .gather (s.actor.gathered ++ [v]) })
  | s4Issue : s.stepTaken 4#4 .none → s.actor.conf.op = true → ¬ s.actor.gathered.length < s.actor.conf.olen →
      Move s .s4SerOut (s.setFlow s.bus.flow
        { s.actor with work := .idle, inflight := .twrite s.actor.gathered s.actor.conf.olen })
  | s4Pass : s.stepTaken 4#4 .none → s.actor.conf.op = false → Move s .s4SerOut (s.goto s.bus.flow 5#4)
  | s5Issue : s.stepTaken 5#4 .none → s.actor.conf.op = false → s.actor.conf.ip = true →
      Move s .s5Filler (s.issue s.bus.flow (.twrite [s.cfg.filler] 1))
  | s5Pass : s.stepTaken 5#4 .none → ¬ (s.actor.conf.op = false ∧ s.actor.conf.ip = true) →
      Move s .s5Filler (s.goto s.bus.flow 6#4)
  | s6Begin : s.stepTaken 6#4 (.delay .pre) → s.actor.inflight = .none →
      Move s .s6SettlePre (s.setFlow s.bus.flow { s.actor with inflight := .delay .pre, hold := s.cfg.tSettlePre })
  | s6End : s.stepTaken 6#4 (.delay .pre) → s.actor.inflight = .delay .pre → s.actor.hold = 0 →
      Move s .s6SettlePre ((s.setFlow s.bus.flow { s.actor with inflight := .none, pc := 7#4 }).emit
        (.delay s.bus.flow .pre))
  | s7 : s.stepTaken 7#4 .none → Move s .s7LatchHigh ((s.driveHigh s.bus.flow).goto s.bus.flow 8#4)
  | s8Issue : s.stepTaken 8#4 .none → s.actor.conf.ip = true → (∀ k rest, s.actor.work ≠ .store k rest) →
      Move s .s8DeserIn (s.issue s.bus.flow (.tread s.actor.conf.ilen))
  | s8Store (k : Nat) (v : Byte) (rest : List Byte) : s.stepTaken 8#4 .none → s.actor.conf.ip = true →
      s.actor.work = .store k (v :: rest) → s.anyMidWrite (wordOf s.cfg (s.actor.conf.iptr + k)) = false →
      s.actor.conf.iptr + k < 2 ^ s.cfg.addrBits →
      Move s .s8DeserIn ((s.setFlow s.bus.flow { s.actor with work := .store (k + 1) rest }).withMem
        (tablePut s.mem (s.actor.conf.iptr + k) v))
  | s8End (k : Nat) : s.stepTaken 8#4 .none → s.actor.conf.ip = true → s.actor.work = .store k [] →
      Move s .s8DeserIn (s.setFlow s.bus.flow { s.actor with work := .idle, pc := 9#4 })
  | s8Pass : s.stepTaken 8#4 .none → s.actor.conf.ip = false → Move s .s8DeserIn (s.goto s.bus.flow 9#4)
  | s9Begin : s.stepTaken 9#4 (.delay .post) → s.actor.inflight = .none →
      Move s .s9SettlePost (s.setFlow s.bus.flow { s.actor with inflight := .delay .post, hold := s.cfg.tSettlePost })
  | s9End : s.stepTaken 9#4 (.delay .post) → s.actor.inflight = .delay .post → s.actor.hold = 0 →
      Move s .s9SettlePost ((s.setFlow s.bus.flow { s.actor with inflight := .none, pc := 10#4 }).emit
        (.delay s.bus.flow .post))
  | s10 : s.stepTaken 10#4 .none → Move s .s10LatchLow ((s.driveLow s.bus.flow).goto s.bus.flow 11#4)
  | s11Release : s.stepTaken 11#4 .none → s.actor.held = true →
      Move s .s11Rel ((s.release s.bus.flow).setFlow s.bus.flow { s.actor.setHeld false with pc := 12#4 })
  | s11Pass : s.stepTaken 11#4 .none → s.actor.held = false → Move s .s11Rel (s.goto s.bus.flow 12#4)
  | s12 : s.stepTaken 12#4 .none → Move s .s12Loop (s.setFlow s.bus.flow { s.actor.loadTimer with pc := 1#4 })
  | lclr : s.actor.inflight = .lclr → Move s .lclr ((s.driveLow s.bus.flow).answered s.bus.flow)
  | lset : s.actor.inflight = .lset → Move s .lset ((s.driveHigh s.bus.flow).answered s.bus.flow)
  | xrel : s.actor.inflight = .xrel → Move s .xrel ((s.release s.bus.flow).answered s.bus.flow)
  | topenLate : s.actor.inflight = .topen → s.actor.phase ≠ .constructed →
      Move s .topen ((s.answered s.bus.flow).emit (.topen s.bus.flow s.actor.conf.tport s.bus.ok))
  | topenStart : s.actor.inflight = .topen → s.actor.phase = .constructed → s.bus.ok = true →
      Move s .topen (((s.answered s.bus.flow).emit (.topen s.bus.flow s.actor.conf.tport true)).setFlow s.bus.flow
        ({ s.actor with inflight := .none } : Flow).start)
  | topenHalt : s.actor.inflight = .topen → s.actor.phase = .constructed → s.bus.ok = false →
      Move s .topen (((s.answered s.bus.flow).emit (.topen s.bus.flow s.actor.conf.tport false)).raiseFatal
        .initOpenFail s.bus.flow)
  | twriteLate (bytes : List Byte) (n : Nat) : s.actor.inflight = .twrite bytes n → s.actor.pc ≠ 4#4 →
      s.actor.pc ≠ 5#4 → Move s .twrite ((s.answered s.bus.flow).emit
        (.twrite s.bus.flow s.actor.conf.tport bytes s.bus.cnt))
  | twriteHalt (bytes : List Byte) (n : Nat) : s.actor.inflight = .twrite bytes n →
      (s.actor.pc = 4#4 ∧ s.bus.cnt ≠ s.actor.conf.olen ∨ s.actor.pc = 5#4 ∧ s.bus.cnt ≠ 1) →
      Move s .twrite (((s.answered s.bus.flow).emit
        (.twrite s.bus.flow s.actor.conf.tport bytes s.bus.cnt)).raiseFatal .ioShortWrite s.bus.flow)
  | twriteS4 (bytes : List Byte) (n : Nat) : s.actor.inflight = .twrite bytes n → s.actor.pc = 4#4 →
      s.bus.cnt = s.actor.conf.olen → Move s .twrite (((s.answered s.bus.flow).emit
        (.twrite s.bus.flow s.actor.conf.tport bytes s.bus.cnt)).goto s.bus.flow 5#4)
  | twriteS5 (bytes : List Byte) (n : Nat) : s.actor.inflight = .twrite bytes n → s.actor.pc = 5#4 →
      s.bus.cnt = 1 → Move s .twrite ((((s.answered s.bus.flow).emit
        (.twrite s.bus.flow s.actor.conf.tport bytes s.bus.cnt)).driveLow s.bus.flow).goto s.bus.flow 6#4)
  | treadLate (n : Nat) : s.actor.inflight = .tread n → s.actor.pc ≠ 8#4 →
      Move s .tread ((s.answered s.bus.flow).emit
        (.tread s.bus.flow s.actor.conf.tport n s.bus.cnt s.bus.data))
  | treadHalt (n : Nat) : s.actor.inflight = .tread n → s.actor.pc = 8#4 → s.bus.cnt ≠ s.actor.conf.ilen →
      Move s .tread (((s.answered s.bus.flow).emit
        (.tread s.bus.flow s.actor.conf.tport n s.bus.cnt s.bus.data)).raiseFatal .ioShortRead s.bus.flow)
  | treadS8 (n : Nat) : s.actor.inflight = .tread n → s.actor.pc = 8#4 → s.bus.cnt = s.actor.conf.ilen →
      (s.bus.cnt = n → s.bus.data.length = n) →
      Move s .tread (((s.answered s.bus.flow).emit
        (.tread s.bus.flow s.actor.conf.tport n s.bus.cnt s.bus.data)).setFlow s.bus.flow
          { s.actor with inflight := .none, work := .store 0 s.bus.data })
  | xacqGrant (x : Nat) : s.actor.inflight = .xacq x → s.owner x = none → s.ctxFree s.bus.flow = true →
      s.actor.pc = 2#4 → Move s .xacq ((((s.answered s.bus.flow).setOwner x (some s.bus.flow)).emit
        (.xacq s.bus.flow x)).setFlow s.bus.flow ({ s.actor.setHeld true with inflight := .none, pc := 3#4 } : Flow))
  | xacqLate (x : Nat) : s.actor.inflight = .xacq x → s.owner x = none → s.ctxFree s.bus.flow = true →
      s.actor.pc ≠ 2#4 → Move s .xacq (((s.answered s.bus.flow).setOwner x (some s.bus.flow)).emit
        (.xacq s.bus.flow x))

/-- The flow whose operation was answered, with nothing in flight. -/
theorem answered_actor (s : State) : (s.answered s.bus.flow).flow s.bus.flow = { s.actor with inflight := .none } := by
  simp [State.actor]

/-- A BAR operation that answers a next state waited or made a move. -/
theorem move_of_bar {s t : State} {b : Id} {v : Bool} :
    (exec (.bnew b) s = .next t → t = s ∨ Move s (.bnew b) t) ∧
    (exec (.bread b) s = .next t → t = s ∨ Move s (.bread b) t) ∧
    (exec (.bwrite b v) s = .next t → t = s ∨ Move s (.bwrite b v) t) := by
  refine ⟨fun h => ?_, fun h => ?_, fun h => ?_⟩
  · obtain ⟨-, ⟨rfl, -⟩ | ⟨hp, h⟩⟩ := onPort_next h
    · exact .inl rfl
    · refine .inr ?_
      split at h
      · cases h; exact .bnewRefuse _ _ hp
      · rename_i h1
        simp only [not_or, not_le, Bool.not_eq_true] at h1
        split at h
        · cases h; exact .bnewRefuse _ _ hp
        · split at h
          · cases h; exact .bnewRefuse _ _ hp
          · split at h
            · cases h; exact .bnewHalt _ hp h1.2
            · cases h
              exact .bnewStore _ hp h1.1 h1.2 ⟨by omega, by omega, by omega⟩
  · obtain ⟨-, ⟨rfl, -⟩ | ⟨hp, h⟩⟩ := onPort_next h
    · exact .inl rfl
    · refine .inr ?_
      split at h
      · cases h; exact .breadRefuse _ _ hp
      · rename_i h1
        simp only [not_or, not_le, Bool.not_eq_false] at h1
        split at h
        · cases h
        · cases h; exact .breadAnswer _ _ hp h1
  · obtain ⟨-, h⟩ := unlessHalted_next h
    split at h
    · refine .inr ?_
      unfold bwriteRead at h
      split at h
      · cases h; exact .bwriteRefuse _ _ _ ‹_›
      · rename_i h1
        simp only [not_or, not_le, Bool.not_eq_false] at h1
        split at h
        · cases h
        · split at h
          · cases h
          · cases h; exact .bwriteRead _ _ _ ‹_› h1 (by simpa using ‹¬ s.hostRace _ _ _ = true›) ‹_›
    · split at h
      · split at h
        · rename_i h1
          obtain ⟨rfl, rfl, h2⟩ := h1
          refine .inr ?_
          unfold bwriteWrite at h
          split at h
          · cases h
          · split at h
            · cases h
            · cases h; exact .bwriteWrite _ _ _ _ h2 ‹_› (by simpa using ‹¬ s.hostRace _ _ _ = true›) ‹_›
        · cases h; exact .inl rfl
      · cases h; exact .inl rfl

/-- A flow control operation that answers a next state waited or made a move. -/
theorem move_of_flow_control {s t : State} {f : Id} :
    (exec (.fnew f) s = .next t → t = s ∨ Move s (.fnew f) t) ∧
    (exec (.finit f) s = .next t → t = s ∨ Move s (.finit f) t) ∧
    (exec (.ftrig f) s = .next t → t = s ∨ Move s (.ftrig f) t) := by
  refine ⟨fun h => ?_, fun h => ?_, fun h => ?_⟩
  · obtain ⟨-, ⟨rfl, -⟩ | ⟨hp, h⟩⟩ := onPort_next h
    · exact .inl rfl
    · refine .inr ?_
      split at h
      · cases h; exact .fnewRefuse _ _ hp
      · rename_i h1
        simp only [not_or, not_le, not_not] at h1
        split at h
        · cases h; exact .fnewRefuse _ _ hp
        · split at h
          · cases h; exact .fnewRefuse _ _ hp
          · split at h
            · cases h; exact .fnewRefuse _ _ hp
            · split at h
              · cases h; exact .fnewRefuse _ _ hp
              · split at h
                · cases h; exact .fnewRefuse _ _ hp
                · split at h
                  · cases h; exact .fnewRefuse _ _ hp
                  · split at h
                    · cases h; exact .fnewHalt _ hp h1.2
                    · rename_i h2 h3 h4 h5 h6 h7 h8
                      cases h
                      refine .fnewStore _ hp h1.1 h1.2 ⟨by omega, by omega, fun h => ?_, by omega, fun h => ?_, fun h => ?_⟩
                        (by simpa using h7)
                      · by_contra h9; exact h3 ⟨h, by omega⟩
                      · simp only [FlowRecord.zeroLength, FlowRecord.wraps, FlowRecord.misaligned, h, true_and,
                          not_or] at h5 h6 h8
                        omega
                      · simp only [FlowRecord.zeroLength, FlowRecord.wraps, FlowRecord.misaligned, h, true_and,
                          not_or] at h5 h6 h8
                        omega
  · obtain ⟨-, ⟨rfl, -⟩ | ⟨hp, h⟩⟩ := onPort_next h
    · exact .inl rfl
    · refine .inr ?_
      split at h
      · cases h; exact .finitRefuse _ _ hp
      · rename_i h1
        simp only [not_or, not_le, not_not] at h1
        cases h; exact .finitIssue _ hp h1.1 h1.2.1 h1.2.2
  · obtain ⟨-, ⟨rfl, -⟩ | ⟨hp, h⟩⟩ := onPort_next h
    · exact .inl rfl
    · refine .inr ?_
      split at h
      · cases h; exact .ftrigRefuse _ _ hp
      · rename_i h1
        simp only [not_or, not_le, not_not] at h1
        cases h; exact .ftrigSet _ hp h1.1 h1.2

/-- A step of the refresh cycle up to S5 that answers a next state waited or made a move. -/
theorem move_of_output_steps {s t : State} :
    (exec .s1Wait s = .next t → t = s ∨ Move s .s1Wait t) ∧
    (exec .s2Acq s = .next t → t = s ∨ Move s .s2Acq t) ∧
    (exec .s3LatchLow s = .next t → t = s ∨ Move s .s3LatchLow t) ∧
    (exec .s4SerOut s = .next t → t = s ∨ Move s .s4SerOut t) ∧
    (exec .s5Filler s = .next t → t = s ∨ Move s .s5Filler t) := by
  refine ⟨fun h => ?_, fun h => ?_, fun h => ?_, fun h => ?_, fun h => ?_⟩ <;>
    simp only [exec, execS1Wait, execS2Acq, execS3LatchLow, execS4SerOut, execS5Filler] at h <;>
    obtain ⟨-, rfl | ⟨hs, h⟩⟩ := onStep_next h <;> first | exact .inl rfl | skip
  · split at h
    · cases h; exact .inr (.s1Leave hs ‹_›)
    · cases h; exact .inl rfl
  · split at h
    · cases h; exact .inr (.s2Ask hs ‹_›)
    · cases h; exact .inr (.s2Pass hs (by simp_all))
  · cases h; exact .inr (.s3 hs)
  · split at h
    · split at h
      · split at h
        · cases h
        · cases h; exact .inr (.s4Gather _ hs ‹_› ‹_› ‹_›)
      · cases h; exact .inr (.s4Issue hs ‹_› ‹_›)
    · cases h; exact .inr (.s4Pass hs (by simp_all))
  · split at h
    · cases h; exact .inr (.s5Issue hs (‹_ ∧ _›).1 (‹_ ∧ _›).2)
    · cases h; exact .inr (.s5Pass hs ‹_›)

/-- A step of the refresh cycle from S6 on that answers a next state waited or made a move. -/
theorem move_of_input_steps {s t : State} :
    (exec .s6SettlePre s = .next t → t = s ∨ Move s .s6SettlePre t) ∧
    (exec .s7LatchHigh s = .next t → t = s ∨ Move s .s7LatchHigh t) ∧
    (exec .s8DeserIn s = .next t → t = s ∨ Move s .s8DeserIn t) ∧
    (exec .s9SettlePost s = .next t → t = s ∨ Move s .s9SettlePost t) ∧
    (exec .s10LatchLow s = .next t → t = s ∨ Move s .s10LatchLow t) ∧
    (exec .s11Rel s = .next t → t = s ∨ Move s .s11Rel t) ∧
    (exec .s12Loop s = .next t → t = s ∨ Move s .s12Loop t) := by
  refine ⟨fun h => ?_, fun h => ?_, fun h => ?_, fun h => ?_, fun h => ?_, fun h => ?_, fun h => ?_⟩ <;>
    simp only [exec, execS6SettlePre, execS7LatchHigh, execS8DeserIn, execS9SettlePost, execS10LatchLow, execS11Rel,
      execS12Loop] at h <;>
    obtain ⟨-, rfl | ⟨hs, h⟩⟩ := onStep_next h <;> first | exact .inl rfl | skip
  · rcases holdStep_next h with ⟨h1, rfl⟩ | ⟨h1, h2, rfl⟩ | ⟨-, -, rfl⟩
    · exact .inr (.s6Begin hs h1)
    · exact .inr (.s6End hs (hs.2.2.1.resolve_left h1) h2)
    · exact .inl rfl
  · cases h; exact .inr (.s7 hs)
  · split at h
    · split at h
      · split at h
        · cases h
        · split at h
          · cases h
          · rename_i hm
            obtain ⟨ha, rfl⟩ := memWrite_eq_some.1 hm
            cases h
            exact .inr (.s8Store _ _ _ hs ‹_› ‹_› (by simpa using ‹¬ s.anyMidWrite _ = true›) ha)
      · cases h; exact .inr (.s8End _ hs ‹_› ‹_›)
      · rename_i h1 h2
        cases h
        refine .inr (.s8Issue hs ‹_› fun k rest hk => ?_)
        cases rest with
        | nil => exact h2 _ hk
        | cons v rest => exact h1 _ _ _ hk
    · cases h; exact .inr (.s8Pass hs (by simp_all))
  · rcases holdStep_next h with ⟨h1, rfl⟩ | ⟨h1, h2, rfl⟩ | ⟨-, -, rfl⟩
    · exact .inr (.s9Begin hs h1)
    · exact .inr (.s9End hs (hs.2.2.1.resolve_left h1) h2)
    · exact .inl rfl
  · cases h; exact .inr (.s10 hs)
  · split at h
    · cases h; exact .inr (.s11Release hs ‹_›)
    · cases h; exact .inr (.s11Pass hs (by simp_all))
  · cases h; exact .inr (.s12 hs)

/-- A latch or exclusion operation, or TOPEN, that answers a next state waited or made a move. -/
theorem move_of_line_operations {s t : State} :
    (exec .lclr s = .next t → t = s ∨ Move s .lclr t) ∧
    (exec .lset s = .next t → t = s ∨ Move s .lset t) ∧
    (exec .xrel s = .next t → t = s ∨ Move s .xrel t) ∧
    (exec .topen s = .next t → t = s ∨ Move s .topen t) ∧
    (exec .xacq s = .next t → t = s ∨ Move s .xacq t) := by
  refine ⟨fun h => ?_, fun h => ?_, fun h => ?_, fun h => ?_, fun h => ?_⟩ <;>
    have h' := h <;> simp only [exec, execLclr, execLset, execXrel, execTopen, execXacq] at h' <;>
    obtain ⟨hf, rfl | ⟨hc, h'⟩⟩ := onAnswer_next h' <;> first | exact .inl rfl | (clear h')
  · have hi := inflight_of_code.1 hc
    rw [exec_lclr_inflight hf hi] at h; cases h; exact .inr (.lclr hi)
  · have hi := inflight_of_code.2.1 hc
    rw [exec_lset_inflight hf hi] at h; cases h; exact .inr (.lset hi)
  · have hi := inflight_of_code.2.2.2.2.2.2 hc
    rw [exec_xrel_inflight hf hi] at h; cases h; exact .inr (.xrel hi)
  · have hi := inflight_of_code.2.2.1 hc
    rw [exec_topen_inflight hf hi] at h
    split at h
    · cases hk : s.bus.ok with
      | true =>
        simp only [finitOpened, hk, if_true, State.emit_flow, answered_actor, Host.Outcome.next.injEq] at h
        subst h; exact .inr (.topenStart hi ‹_› hk)
      | false =>
        simp only [finitOpened, hk, raise, Bool.false_eq_true, if_false, Host.Outcome.next.injEq] at h
        subst h; exact .inr (.topenHalt hi ‹_› hk)
    · cases h; exact .inr (.topenLate hi ‹_›)
  · obtain ⟨x, hi⟩ := inflight_of_code.2.2.2.2.2.1 hc
    rw [exec_xacq_inflight hf hi] at h
    split at h
    · split at h
      · simp only [s2Granted, State.emit_flow, State.setOwner_flow, answered_actor, Host.Outcome.next.injEq] at h
        subst h; exact .inr (.xacqGrant x hi (‹_ ∧ _›).1 (‹_ ∧ _›).2 ‹_›)
      · cases h; exact .inr (.xacqLate x hi (‹_ ∧ _›).1 (‹_ ∧ _›).2 ‹_›)
    · cases h; exact .inl rfl

/-- A transfer that answers a next state waited or made a move. -/
theorem move_of_transfers {s t : State} :
    (exec .twrite s = .next t → t = s ∨ Move s .twrite t) ∧
    (exec .tread s = .next t → t = s ∨ Move s .tread t) := by
  refine ⟨fun h => ?_, fun h => ?_⟩ <;>
    have h' := h <;> simp only [exec, execTwrite, execTread] at h' <;>
    obtain ⟨hf, rfl | ⟨hc, h'⟩⟩ := onAnswer_next h' <;> first | exact .inl rfl | (clear h')
  · obtain ⟨bytes, n, hi⟩ := inflight_of_code.2.2.2.1 hc
    rw [exec_twrite_inflight hf hi] at h
    split at h
    · simp only [s4Written, State.emit_flow, answered_actor] at h
      split at h
      · cases h; exact .inr (.twriteHalt _ _ hi (.inl ⟨‹_›, ‹_›⟩))
      · cases h; exact .inr (.twriteS4 _ _ hi ‹_› (by simpa using ‹¬ _ ≠ _›))
    · split at h
      · unfold s5Written at h
        split at h
        · cases h; exact .inr (.twriteHalt _ _ hi (.inr ⟨‹_›, ‹_›⟩))
        · cases h; exact .inr (.twriteS5 _ _ hi ‹_› (by simpa using ‹¬ _ ≠ _›))
      · cases h; exact .inr (.twriteLate _ _ hi ‹_› ‹_›)
  · obtain ⟨n, hi⟩ := inflight_of_code.2.2.2.2.1 hc
    rw [exec_tread_inflight hf hi] at h
    split at h
    · cases h; exact .inl rfl
    · rename_i hl
      split at h
      · simp only [s8Answered, State.emit_flow, answered_actor] at h
        split at h
        · cases h; exact .inr (.treadHalt _ hi ‹_› ‹_›)
        · cases h
          exact .inr (.treadS8 _ hi ‹_› (by simpa using ‹¬ _ ≠ _›) fun hn => by
            by_contra hd; exact hl ⟨hn, hd⟩)
      · cases h; exact .inr (.treadLate _ hi ‹_›)

/-- No operation answers a next state in a halted block (rule R216). -/
theorem exec_running {i : Instr} {s t : State} (h : exec i s = .next t) : s.fatal = false := by
  cases i <;> exact (unlessHalted_next h).1

/-- An operation that answers a next state waited or made a move. -/
theorem exec_move {i : Instr} {s t : State} (h : exec i s = .next t) : t = s ∨ Move s i t := by
  cases i with
  | bnew b => exact (move_of_bar (v := false)).1 h
  | bread b => exact (move_of_bar (v := false)).2.1 h
  | bwrite b v => exact move_of_bar.2.2 h
  | fnew f => exact move_of_flow_control.1 h
  | finit f => exact move_of_flow_control.2.1 h
  | ftrig f => exact move_of_flow_control.2.2 h
  | s1Wait => exact move_of_output_steps.1 h
  | s2Acq => exact move_of_output_steps.2.1 h
  | s3LatchLow => exact move_of_output_steps.2.2.1 h
  | s4SerOut => exact move_of_output_steps.2.2.2.1 h
  | s5Filler => exact move_of_output_steps.2.2.2.2 h
  | s6SettlePre => exact move_of_input_steps.1 h
  | s7LatchHigh => exact move_of_input_steps.2.1 h
  | s8DeserIn => exact move_of_input_steps.2.2.1 h
  | s9SettlePost => exact move_of_input_steps.2.2.2.1 h
  | s10LatchLow => exact move_of_input_steps.2.2.2.2.1 h
  | s11Rel => exact move_of_input_steps.2.2.2.2.2.1 h
  | s12Loop => exact move_of_input_steps.2.2.2.2.2.2 h
  | lclr => exact move_of_line_operations.1 h
  | lset => exact move_of_line_operations.2.1 h
  | xrel => exact move_of_line_operations.2.2.1 h
  | topen => exact move_of_line_operations.2.2.2.1 h
  | xacq => exact move_of_line_operations.2.2.2.2 h
  | twrite => exact move_of_transfers.1 h
  | tread => exact move_of_transfers.2 h

/-- What a transition that answers a next state is: a restart, or, from a state that differs from `s` in its inputs and
its port signals only, a wait, a move of the operation the input selects, a refusal, one unit of the time base, a
synchronisation of two host contexts, or a direct write of the host. -/
theorem step_next {s t : State} (h : step s = .next t) :
    (nextInput s = .restart ∧ ∃ sc d, t = State.restart { s with script := sc, draws := d }) ∨
    (nextInput s ≠ .restart ∧ s.fatal = false ∧ ∃ sc d b u, u = { s with script := sc, draws := d, bus := b } ∧
      (t = u ∨ (∃ i, serve (nextInput s) (takeInput s) = .run i u ∧ Move u i t) ∨ (∃ r, t = u.refuse r) ∨
        (∃ f, f < u.cfg.nFlows ∧ nextInput s = .tick f ∧ t = u.setFlow f (u.flow f).tick) ∨
        (∃ a b, nextInput s = .sync a b ∧ t = u.synced a b) ∨
        ∃ p a v, nextInput s = .ownerWrite p a v ∧ u.portFree p = true ∧ u.hostRace p a false = false ∧
          (u.noteWrite p a false).memWrite a v = some t)) := by
  obtain ⟨sc, d, hs⟩ := takeInput_eq s
  rcases step_cases h with ⟨i, u, hr, he⟩ | hd
  · obtain ⟨hf, b, hu⟩ := serve_run hr
    refine .inr ⟨fun hn => ?_, by simpa [hs] using hf, sc, d, b, u, by rw [hu, hs], ?_⟩
    · rw [hn] at hr; simp [serve] at hr
    · rcases exec_move he with he | he
      · exact .inl he
      · exact .inr (.inl ⟨i, hr, he⟩)
  · rcases serve_done_next hd with ⟨hn, ht⟩ | ⟨hn, hf, hc⟩
    · exact .inl ⟨hn, sc, d, by rw [ht, hs]⟩
    · refine .inr ⟨hn, by simpa [hs] using hf, sc, d, s.bus, takeInput s, by rw [hs], ?_⟩
      rcases hc with hc | hc | hc | hc | hc
      · exact .inl hc
      · exact .inr (.inr (.inl hc))
      · exact .inr (.inr (.inr (.inl hc)))
      · exact .inr (.inr (.inr (.inr (.inl hc))))
      · exact .inr (.inr (.inr (.inr (.inr hc))))

end Sys2Proof.Machine
end

