-- ==== Sys2Proof/Laws/Fairness.lean ====
section
/-! SUPPORT. What one transition of a run without end can do to a live flow and to the owner of a primitive, and that a
turn of a flow that waits for nothing moves it: what a proof that a cycle completes rests on. -/

namespace Sys2Proof.Machine

/-- The step after a step: 12 goes back to 1 (rule R27). -/
def stepAfter (pc : StepCode) : StepCode := if pc = 12#4 then 1#4 else pc + 1#4

/-- A transition has not moved the flow: its step, its operation in flight and its place inside the step are the same,
and neither a wait nor a hold that was over has begun again. -/
def Flow.Stays (fl fl' : Flow) : Prop :=
  fl'.pc = fl.pc ∧ fl'.inflight = fl.inflight ∧ fl'.work = fl.work ∧ (fl.due → fl'.due) ∧ (fl.hold = 0 → fl'.hold = 0)

/-- How much a flow has left to do inside its step: bytes to read or store, an operation to issue or to be answered. -/
def Flow.rank (fl : Flow) : Nat :=
  match fl.inflight, fl.work with
  | .none, .store _ rest => rest.length + 1
  | .none, .gather got => fl.conf.olen - got.length + 1
  | .none, .idle => fl.conf.olen + fl.conf.ilen + 6
  | .tread _, _ => fl.conf.ilen + 5
  | _, _ => 0

/-- A transition of a block that does not halt leaves a live flow where it is, or takes it to its next step, or nearer to
the end of the one it is in. -/
def Flow.Goes (fl fl' : Flow) : Prop :=
  fl.Stays fl' ∨ fl'.pc = stepAfter fl.pc ∨ (fl'.pc = fl.pc ∧ fl'.rank < fl.rank)

/-- A transition that changes nothing of a flow has not moved it. -/
theorem Flow.stays_refl (fl : Flow) : fl.Stays fl := ⟨rfl, rfl, rfl, id, id⟩

/-- The time base moves no flow. -/
theorem Flow.stays_tick (fl : Flow) : fl.Stays fl.tick := by
  refine ⟨rfl, rfl, rfl, fun h => h.imp (fun h => ?_) id, fun h => ?_⟩
  · simp only [Flow.tick]; split <;> omega
  · simp only [Flow.tick]; split <;> omega

/-- What a move does to a live flow, when the block does not halt. -/
theorem move_goes {s t : State} {i : Instr} (h : Move s i t) (ht : t.fatal = false) (f : Nat)
    (hl : (s.flow f).phase = .live) (hi : InflightOk s.cfg (s.flow f)) (hw : WorkOk (s.flow f)) :
    (s.flow f).Goes (t.flow f) := by
  cases h
  case bwriteWrite b v old hp hq hr hwb =>
    obtain ⟨⟨m, rfl, -⟩, -⟩ := writeBytes_spec hwb
    exact .inl (Flow.stays_refl _)
  case fnewStore g hp hf hv hc hs =>
    have : f ≠ g.toNat := by rintro rfl; simp [hv] at hl
    exact .inl (by simp [this, Flow.stays_refl])
  case finitIssue g hp hf hv hi =>
    have : f ≠ g.toNat := by rintro rfl; simp [hv] at hl
    exact .inl (by simp [this, Flow.stays_refl])
  case ftrigSet g hp hf hv =>
    refine .inl ?_
    by_cases e : f = g.toNat
    · subst e; simp only [State.setFlow_flow, if_true]; exact ⟨rfl, rfl, rfl, fun _ => .inr rfl, id⟩
    · simp [e, Flow.stays_refl]
  case topenStart hi' hp ho =>
    have : f ≠ s.bus.flow := by rintro rfl; simp [State.actor, hl] at hp
    exact .inl (by simp [this, Flow.stays_refl])
  case treadS8 n hi' hp hc hd =>
    by_cases e : f = s.bus.flow
    · subst e
      refine .inr (.inr ?_)
      have hi2 : (s.flow s.bus.flow).inflight = .tread n := hi'
      simp only [InflightOk, hi2] at hi
      have hlen : s.bus.data.length = n := hd (by rw [hc, hi.2.2.2]; rfl)
      simp only [State.setFlow_flow, if_true, State.actor]
      refine ⟨trivial, ?_⟩
      simp only [Flow.rank, hi2, hlen, hi.2.2.2]; omega
    · exact .inl (by simp [e, Flow.stays_refl])
  all_goals first
    | (simp at ht; done)
    | exact .inl (Flow.stays_refl _)
    | (by_cases e : f = s.bus.flow
       · subst e
         simp only [State.actor, State.stepTaken] at *
         first
         | (exfalso; simp_all [InflightOk]; done)
         | (refine .inr (.inl ?_); simp [*, stepAfter]; done)
         | (refine .inr (.inr ?_); cases hwk : (s.flow s.bus.flow).work <;> simp_all [Flow.rank, InflightOk, WorkOk, Flow.gathered] <;> omega)
       · exact .inl (by simp [e, Flow.stays_refl]))

/-- A live flow stays live, its configuration the same. -/
theorem move_live {s t : State} {i : Instr} (h : Move s i t) (f : Nat) (hl : (s.flow f).phase = .live) :
    (t.flow f).phase = .live ∧ (t.flow f).conf = (s.flow f).conf := by
  cases h
  case bwriteWrite b v old hp hq hr hwb =>
    obtain ⟨⟨m, rfl, -⟩, -⟩ := writeBytes_spec hwb
    exact ⟨hl, rfl⟩
  case fnewStore g hp hf hv hc hs =>
    have : f ≠ g.toNat := by rintro rfl; simp [hv] at hl
    simp [this, hl]
  case finitIssue g hp hf hv hi =>
    have : f ≠ g.toNat := by rintro rfl; simp [hv] at hl
    simp [this, hl]
  case ftrigSet g hp hf hv =>
    by_cases e : f = g.toNat
    · subst e; simp [Flow.setTrig, hl]
    · simp [e, hl]
  all_goals first
    | exact ⟨hl, rfl⟩
    | (by_cases e : f = s.bus.flow
       · subst e; simp [State.actor, Flow.setTrig, Flow.setHeld, Flow.loadTimer, Flow.start, hl]
       · simp [e, hl])

/-- What a transition does to who owns a primitive: nothing, or it frees it, or it gives a free one away. -/
theorem move_owner {s t : State} {i : Instr} (h : Move s i t) (x g : Nat) (ho : s.owner x = some g) :
    t.owner x = some g ∨ t.owner x = none := by
  cases h
  case bwriteWrite b v old hp hq hr hwb =>
    obtain ⟨⟨m, rfl, -⟩, -⟩ := writeBytes_spec hwb
    exact .inl ho
  all_goals first
    | exact .inl ho
    | (simp only [State.setFlow_owner, State.answered_owner, State.release_owner, State.emit_owner, State.setOwner_owner]
       split
       · simp_all
       · exact .inl ho)

variable {x : Nat → Input} {r : Nat → State}

/-- A transition of a run (`step_next`), which is no restart and comes from and leads to a block that has not halted. -/
theorem run_next (h : Run x r) (n : Nat) : (r n).fatal = false ∧ ∃ sc d b u,
    u = { r n with script := sc, draws := d, bus := b } ∧
      (r (n + 1) = u ∨ (∃ i, serve (x n) { r n with script := [] } = .run i u ∧ Move u i (r (n + 1))) ∨
        (∃ w, r (n + 1) = u.refuse w) ∨
        (∃ f, f < u.cfg.nFlows ∧ x n = .tick f ∧ r (n + 1) = u.setFlow f (u.flow f).tick) ∨
        (∃ a b, x n = .sync a b ∧ r (n + 1) = u.synced a b) ∨
        ∃ p a v, x n = .ownerWrite p a v ∧ u.portFree p = true ∧ u.hostRace p a false = false ∧
          (u.noteWrite p a false).memWrite a v = some (r (n + 1))) := by
  rcases step_next (h.step n) with ⟨h1, -⟩ | ⟨-, hf, sc, d, b, u, hu, hc⟩
  · exact absurd h1 (h.noRestart n)
  · exact ⟨hf, sc, d, b, u, hu, hc⟩

/-- What a transition of a run does to a live flow. -/
theorem run_goes (h : Run x r) (n f : Nat) (hl : ((r n).flow f).phase = .live) :
    ((r n).flow f).Goes ((r (n + 1)).flow f) := by
  have hi := (h.inv n).flows f
  have ht := (run_next h (n + 1)).1
  obtain ⟨-, sc, d, b, u, rfl, hc⟩ := run_next h n
  rcases hc with hc | ⟨i, -, hm⟩ | ⟨w, hc⟩ | ⟨g, -, -, hc⟩ | ⟨a, c, -, hc⟩ | ⟨p, a, v, -, -, -, hc⟩
  · rw [hc]; exact .inl (Flow.stays_refl _)
  · exact move_goes hm ht f hl hi.inflight hi.work
  · rw [hc]; exact .inl (Flow.stays_refl _)
  · refine .inl ?_
    rw [hc, State.setFlow_flow]
    split
    · subst g; exact Flow.stays_tick _
    · exact Flow.stays_refl _
  · rw [hc]; exact .inl (Flow.stays_refl _)
  · obtain ⟨-, hc⟩ := memWrite_eq_some.1 hc
    rw [hc]; exact .inl (Flow.stays_refl _)

/-- What a transition of a run does to who owns a primitive. -/
theorem run_owner (h : Run x r) (n y g : Nat) (ho : (r n).owner y = some g) :
    (r (n + 1)).owner y = some g ∨ (r (n + 1)).owner y = none := by
  obtain ⟨-, sc, d, b, u, rfl, hc⟩ := run_next h n
  rcases hc with hc | ⟨i, -, hm⟩ | ⟨w, hc⟩ | ⟨g, -, -, hc⟩ | ⟨a, c, -, hc⟩ | ⟨p, a, v, -, -, -, hc⟩
  · rw [hc]; exact .inl ho
  · exact move_owner hm y g ho
  · rw [hc]; exact .inl ho
  · rw [hc]; exact .inl ho
  · rw [hc]; exact .inl ho
  · obtain ⟨-, hc⟩ := memWrite_eq_some.1 hc
    rw [hc]; exact .inl ho

/-- A live flow of a run stays live, with the same configuration. -/
theorem run_live (h : Run x r) (n f : Nat) (hl : ((r n).flow f).phase = .live) :
    ((r (n + 1)).flow f).phase = .live ∧ ((r (n + 1)).flow f).conf = ((r n).flow f).conf := by
  obtain ⟨-, sc, d, b, u, rfl, hc⟩ := run_next h n
  rcases hc with hc | ⟨i, -, hm⟩ | ⟨w, hc⟩ | ⟨g, -, -, hc⟩ | ⟨a, c, -, hc⟩ | ⟨p, a, v, -, -, -, hc⟩
  · rw [hc]; exact ⟨hl, rfl⟩
  · exact move_live hm f hl
  · rw [hc]; exact ⟨hl, rfl⟩
  · rw [hc, State.setFlow_flow]
    split
    · subst g; exact ⟨hl, rfl⟩
    · exact ⟨hl, rfl⟩
  · rw [hc]; exact ⟨hl, rfl⟩
  · obtain ⟨-, hc⟩ := memWrite_eq_some.1 hc
    rw [hc]; exact ⟨hl, rfl⟩

/-- The operation the next transition of a live flow performs. -/
theorem run_exec (h : Run x r) (n f : Nat) (hl : ((r n).flow f).phase = .live) (hx : x n = .sequencer f) {i : Instr}
    (hi : decodeS ((r n).flow f).pc = .ok i) :
    exec i { r n with script := [], bus := { (r n).bus with flow := f } } = .next (r (n + 1)) := by
  have hf := ((h.inv n).confs f (by rw [hl]; exact fun e => nomatch e)).1
  have hfat := (run_next h n).1
  have hs := h.step n
  have hd : serve (.sequencer f) { r n with script := [] } =
      .run i { r n with script := [], bus := { (r n).bus with flow := f } } := by
    simp only [serve, hfat, Bool.false_eq_true, if_false, fetchStep]
    rw [if_pos ⟨hf, hl⟩]
    show (match decodeS ((r n).flow f).pc with | .ok i => _ | .error _ => _) = _
    rw [hi]
  rw [hx] at hs
  unfold step fetch at hs
  rw [show serve (nextInput ((r n).offered (.sequencer f))) (takeInput ((r n).offered (.sequencer f))) = _ from hd] at hs
  exact hs

/-- The codes of the twelve steps. -/
theorem step_code_cases : ∀ k : StepCode, 1#4 ≤ k → k ≤ 12#4 →
    k = 1#4 ∨ k = 2#4 ∨ k = 3#4 ∨ k = 4#4 ∨ k = 5#4 ∨ k = 6#4 ∨ k = 7#4 ∨ k = 8#4 ∨ k = 9#4 ∨ k = 10#4 ∨ k = 11#4 ∨
      k = 12#4 := by decide

/-- A turn of a live flow that waits for nothing, its wait or its hold being over and its context free, moves it. -/
theorem run_turn (h : Run x r) (n f : Nat) (hl : ((r n).flow f).phase = .live) (hx : x n = .sequencer f)
    (hc : (r n).ctxFree f = true) (h1 : ((r n).flow f).pc = 1#4 → ((r n).flow f).due)
    (hi : ((r n).flow f).inflight = .none ∨ ((r n).flow f).hold = 0 ∧ ∃ k, ((r n).flow f).inflight = .delay k) :
    ¬ ((r n).flow f).Stays ((r (n + 1)).flow f) := by
  have hF := (h.inv n).flows f
  obtain ⟨hp1, hp2, -⟩ := hF.stepping hl
  have hfat := (run_next h n).1
  have hnone : ((r n).flow f).pc ≠ 6#4 → ((r n).flow f).pc ≠ 9#4 → ((r n).flow f).inflight = .none := fun h6 h9 => by
    rcases hi with hi | ⟨-, k, hi⟩
    · exact hi
    · have := hF.inflight
      cases k <;> simp_all [InflightOk]
  have hE := fun i => run_exec h n f hl hx (i := i)
  generalize hu : ({ r n with script := [], bus := { (r n).bus with flow := f } } : State) = u at hE
  have ha : u.actor = (r n).flow f := by subst hu; rfl
  have hb : u.bus.flow = f := by subst hu; rfl
  have hfu : u.fatal = false := by subst hu; exact hfat
  have hcu : u.ctxFree u.bus.flow = true := by subst hu; exact hc
  have hff : u.flow f = (r n).flow f := by subst hu; rfl
  have hn : ∀ {o t : State}, (Host.Outcome.next o : Res) = .next t → t = o := fun e => by cases e; rfl
  rintro ⟨s1, s2, s3, -, -⟩
  rcases step_code_cases _ hp1 hp2 with hp | hp | hp | hp | hp | hp | hp | hp | hp | hp | hp | hp
  · have e := hE .s1Wait (by rw [hp]; rfl)
    rw [exec_s1Wait_taken hfu ⟨ha ▸ hl, ha ▸ hp, .inl (ha ▸ hnone (by simp [hp]) (by simp [hp])), hcu⟩, if_pos (ha ▸ h1 hp)] at e
    rw [hn e, hb] at s1; simp [hp] at s1
  · have e := hE .s2Acq (by rw [hp]; rfl)
    have hnn := hnone (by simp [hp]) (by simp [hp])
    rw [exec_s2Acq_taken hfu ⟨ha ▸ hl, ha ▸ hp, .inl (ha ▸ hnn), hcu⟩] at e
    split at e
    · rw [hn e, hb] at s2; simp [hnn] at s2
    · rw [hn e, hb] at s1; simp [hp] at s1
  · have e := hE .s3LatchLow (by rw [hp]; rfl)
    rw [exec_s3LatchLow_taken hfu ⟨ha ▸ hl, ha ▸ hp, .inl (ha ▸ hnone (by simp [hp]) (by simp [hp])), hcu⟩] at e
    rw [hn e, hb] at s1; simp [hp] at s1
  · have e := hE .s4SerOut (by rw [hp]; rfl)
    have hnn := hnone (by simp [hp]) (by simp [hp])
    rw [exec_s4SerOut_taken hfu ⟨ha ▸ hl, ha ▸ hp, .inl (ha ▸ hnn), hcu⟩] at e
    split at e
    · split at e
      · split at e
        · cases e
        · rw [hn e, hb, ha] at s3
          cases hw : ((r n).flow f).work <;> simp [hw, Flow.gathered] at s3
      · rw [hn e, hb] at s2; simp [hnn] at s2
    · rw [hn e, hb] at s1; simp [hp] at s1
  · have e := hE .s5Filler (by rw [hp]; rfl)
    have hnn := hnone (by simp [hp]) (by simp [hp])
    rw [exec_s5Filler_taken hfu ⟨ha ▸ hl, ha ▸ hp, .inl (ha ▸ hnn), hcu⟩] at e
    split at e
    · rw [hn e, hb] at s2; simp [hnn] at s2
    · rw [hn e, hb] at s1; simp [hp] at s1
  · have e := hE .s6SettlePre (by rw [hp]; rfl)
    have hk : ∀ k, ((r n).flow f).inflight = .delay k → k = .pre := fun k hk => by
      have := hF.inflight; cases k <;> simp_all [InflightOk]
    rw [exec_s6SettlePre_taken hfu ⟨ha ▸ hl, ha ▸ hp, by rw [ha]; rcases hi with hi | ⟨-, k, hi⟩; exact .inl hi; exact .inr (hk k hi ▸ hi), hcu⟩] at e
    rcases holdStep_next e with ⟨h2, e⟩ | ⟨h2, h3, e⟩ | ⟨h2, h3, e⟩
    · rw [e, hb] at s2; rw [ha] at h2; simp [h2] at s2
    · rw [e, hb] at s1; simp [hp] at s1
    · rw [ha] at h2 h3
      rcases hi with hi | ⟨hi, -⟩
      · exact h2 hi
      · exact h3 hi
  · have e := hE .s7LatchHigh (by rw [hp]; rfl)
    rw [exec_s7LatchHigh_taken hfu ⟨ha ▸ hl, ha ▸ hp, .inl (ha ▸ hnone (by simp [hp]) (by simp [hp])), hcu⟩] at e
    rw [hn e, hb] at s1; simp [hp] at s1
  · have e := hE .s8DeserIn (by rw [hp]; rfl)
    have hnn := hnone (by simp [hp]) (by simp [hp])
    rw [exec_s8DeserIn_taken hfu ⟨ha ▸ hl, ha ▸ hp, .inl (ha ▸ hnn), hcu⟩] at e
    split at e
    · split at e
      · split at e
        · cases e
        · split at e
          · cases e
          · rename_i hw _ _ _ hm
            obtain ⟨-, hm⟩ := memWrite_eq_some.1 hm
            rw [hn e, hm, hb, ha] at s3
            rw [ha] at hw
            change ((u.setFlow f { (r n).flow f with work := _ }).flow f).work = _ at s3
            simp [hw] at s3
      · rw [hn e, hb] at s1; simp [hp] at s1
      · rw [hn e, hb] at s2; simp [hnn] at s2
    · rw [hn e, hb] at s1; simp [hp] at s1
  · have e := hE .s9SettlePost (by rw [hp]; rfl)
    have hk : ∀ k, ((r n).flow f).inflight = .delay k → k = .post := fun k hk => by
      have := hF.inflight; cases k <;> simp_all [InflightOk]
    rw [exec_s9SettlePost_taken hfu ⟨ha ▸ hl, ha ▸ hp, by rw [ha]; rcases hi with hi | ⟨-, k, hi⟩; exact .inl hi; exact .inr (hk k hi ▸ hi), hcu⟩] at e
    rcases holdStep_next e with ⟨h2, e⟩ | ⟨h2, h3, e⟩ | ⟨h2, h3, e⟩
    · rw [e, hb] at s2; rw [ha] at h2; simp [h2] at s2
    · rw [e, hb] at s1; simp [hp] at s1
    · rw [ha] at h2 h3
      rcases hi with hi | ⟨hi, -⟩
      · exact h2 hi
      · exact h3 hi
  · have e := hE .s10LatchLow (by rw [hp]; rfl)
    rw [exec_s10LatchLow_taken hfu ⟨ha ▸ hl, ha ▸ hp, .inl (ha ▸ hnone (by simp [hp]) (by simp [hp])), hcu⟩] at e
    rw [hn e, hb] at s1; simp [hp] at s1
  · have e := hE .s11Rel (by rw [hp]; rfl)
    rw [exec_s11Rel_taken hfu ⟨ha ▸ hl, ha ▸ hp, .inl (ha ▸ hnone (by simp [hp]) (by simp [hp])), hcu⟩] at e
    split at e
    · rw [hn e, hb] at s1; simp [hp] at s1
    · rw [hn e, hb] at s1; simp [hp] at s1
  · have e := hE .s12Loop (by rw [hp]; rfl)
    rw [exec_s12Loop_taken hfu ⟨ha ▸ hl, ha ▸ hp, .inl (ha ▸ hnone (by simp [hp]) (by simp [hp])), hcu⟩] at e
    rw [hn e, hb] at s1; simp [hp] at s1

end Sys2Proof.Machine
end

