-- ==== Sys2Proof/Laws/Operands.lean ====
section
/-! SUPPORT. The map from a bit index to a byte and a bit (rule R62, D1): what a well-formed `BITMAP` can do. -/

namespace Sys2Proof

open Machine

/-- The default map (D1): place `i` for index `i`. -/
theorem place_default {c : Config} (h : c.bitmap = []) (len i : Nat) : c.place len i = i := by
  rw [Config.place, h]; rfl

/-- For one length `BITMAP` reads off a list of every place once, or is the default. -/
theorem place_cases {c : Config} (h : c.wf) (len : Nat) :
    (∃ p : List Nat, p.Perm (List.range (8 * len)) ∧ ∀ i, c.place len i = p.getD i i) ∨ ∀ i, c.place len i = i := by
  unfold Config.place
  cases hp : tableFind c.bitmap len with
  | none => exact .inr fun _ => rfl
  | some p => exact .inl ⟨p, h.2.2.1 _ (find_mem hp), fun _ => rfl⟩

/-- An index of the buffer has a place in the buffer. -/
theorem place_lt {c : Config} (h : c.wf) {len i : Nat} (hi : i < 8 * len) : c.place len i < 8 * len := by
  rcases place_cases h len with ⟨p, hp, hq⟩ | hq
  · have hl : i < p.length := by rw [hp.length_eq, List.length_range]; exact hi
    rw [hq, List.getD_eq_getElem _ _ hl]
    exact List.mem_range.1 (hp.mem_iff.1 (List.getElem_mem hl))
  · rw [hq]; exact hi

/-- Two indices of one buffer never have the same place. -/
theorem place_injective {c : Config} (h : c.wf) {len i j : Nat} (hi : i < 8 * len) (hj : j < 8 * len)
    (he : c.place len i = c.place len j) : i = j := by
  rcases place_cases h len with ⟨p, hp, hq⟩ | hq
  · have hl : p.length = 8 * len := by rw [hp.length_eq, List.length_range]
    rw [hq, hq, List.getD_eq_getElem _ _ (by omega), List.getD_eq_getElem _ _ (by omega)] at he
    exact (hp.nodup_iff.2 List.nodup_range).getElem_inj_iff.1 he
  · rwa [hq, hq] at he

/-- Every place of a buffer is some index's. -/
theorem place_surjective {c : Config} (h : c.wf) {len n : Nat} (hn : n < 8 * len) : ∃ i < 8 * len, c.place len i = n := by
  rcases place_cases h len with ⟨p, hp, hq⟩ | hq
  · obtain ⟨i, hi, he⟩ := List.getElem_of_mem (hp.mem_iff.2 (List.mem_range.2 hn))
    have hl : p.length = 8 * len := by rw [hp.length_eq, List.length_range]
    exact ⟨i, by omega, by rw [hq, List.getD_eq_getElem _ _ hi]; exact he⟩
  · exact ⟨n, hn, hq n⟩

/-- The byte a legal index selects lies in its buffer (rules R23, R60). -/
theorem addr_in_buffer {c : Config} (h : c.wf) {r : BarRecord} (hr : r.index < 8 * r.len) :
    r.base ≤ r.addr c ∧ r.addr c < r.base + r.len := by
  have := place_lt h hr
  unfold BarRecord.addr
  omega

/-- The bit a legal index selects is one of the eight. -/
theorem bit_lt (c : Config) (r : BarRecord) : r.bit c < 8 := Nat.mod_lt _ (by decide)

end Sys2Proof
end

