-- ==== Sys2Proof/Laws/PerInstr.lean ====
section
/-! SUPPORT. The statements made instruction by instruction: family `OpcodeRow`, that the code word of an operation
has the pattern of its row in spec/opcode_table.json under the row's mask, and carries its operands in the bits that
the mask leaves free (rules R92, R96 to R98). -/

namespace Sys2Proof.Laws.OpcodeRow

/-- The command word has the row's pattern under the row's mask, and the operands in `ID` and `V`. -/
def HostRow (mask pattern w : HostWord) (id : Id) (v : Bool) : Prop :=
  w &&& mask = pattern ∧ hostId w = id ∧ hostV w = v

/-- The row of the opcode table that the instruction's code word matches. -/
def Statement : Instr → Prop
  | .bnew b => ∃ w, encode (.bnew b) = .h w ∧ HostRow 0xF000FFFF#32 0x10000000#32 w b false
  | .bread b => ∃ w, encode (.bread b) = .h w ∧ HostRow 0xF000FFFF#32 0x20000000#32 w b false
  | .bwrite b v => ∃ w, encode (.bwrite b v) = .h w ∧ HostRow 0xF000FFFE#32 0x30000000#32 w b v
  | .fnew f => ∃ w, encode (.fnew f) = .h w ∧ HostRow 0xF000FFFF#32 0x40000000#32 w f false
  | .finit f => ∃ w, encode (.finit f) = .h w ∧ HostRow 0xF000FFFF#32 0x50000000#32 w f false
  | .ftrig f => ∃ w, encode (.ftrig f) = .h w ∧ HostRow 0xF000FFFF#32 0x60000000#32 w f false
  | .s1Wait => encode .s1Wait = .s 1#4
  | .s2Acq => encode .s2Acq = .s 2#4
  | .s3LatchLow => encode .s3LatchLow = .s 3#4
  | .s4SerOut => encode .s4SerOut = .s 4#4
  | .s5Filler => encode .s5Filler = .s 5#4
  | .s6SettlePre => encode .s6SettlePre = .s 6#4
  | .s7LatchHigh => encode .s7LatchHigh = .s 7#4
  | .s8DeserIn => encode .s8DeserIn = .s 8#4
  | .s9SettlePost => encode .s9SettlePost = .s 9#4
  | .s10LatchLow => encode .s10LatchLow = .s 10#4
  | .s11Rel => encode .s11Rel = .s 11#4
  | .s12Loop => encode .s12Loop = .s 12#4
  | .lclr => encode .lclr = .p 1#3
  | .lset => encode .lset = .p 2#3
  | .topen => encode .topen = .p 3#3
  | .twrite => encode .twrite = .p 4#3
  | .tread => encode .tread = .p 5#3
  | .xacq => encode .xacq = .p 6#3
  | .xrel => encode .xrel = .p 7#3

/-- A command word made of its fields matches the row of its `OP` when the mask covers `V`. -/
theorem hostRow_full (op : BitVec 4) (id : Id) (v : Bool) :
    HostRow 0xF000FFFF#32 (hostWord op 0#12 v) (hostWord op id v) id v :=
  ⟨(hostWord_and op id v).1, (hostWord_fields op id v).2.1, (hostWord_fields op id v).2.2.2⟩

/-- A command word made of its fields matches the row of its `OP` when the mask leaves `V` free. -/
theorem hostRow_freeV (op : BitVec 4) (id : Id) (v : Bool) :
    HostRow 0xF000FFFE#32 (hostWord op 0#12 false) (hostWord op id v) id v :=
  ⟨(hostWord_and op id v).2, (hostWord_fields op id v).2.1, (hostWord_fields op id v).2.2.2⟩

theorem bnew (b : Id) : Statement (.bnew b) := ⟨_, rfl, hostRow_full 0x1#4 b false⟩
theorem bread (b : Id) : Statement (.bread b) := ⟨_, rfl, hostRow_full 0x2#4 b false⟩
theorem bwrite (b : Id) (v : Bool) : Statement (.bwrite b v) := ⟨_, rfl, hostRow_freeV 0x3#4 b v⟩
theorem fnew (f : Id) : Statement (.fnew f) := ⟨_, rfl, hostRow_full 0x4#4 f false⟩
theorem finit (f : Id) : Statement (.finit f) := ⟨_, rfl, hostRow_full 0x5#4 f false⟩
theorem ftrig (f : Id) : Statement (.ftrig f) := ⟨_, rfl, hostRow_full 0x6#4 f false⟩
theorem s1Wait : Statement .s1Wait := rfl
theorem s2Acq : Statement .s2Acq := rfl
theorem s3LatchLow : Statement .s3LatchLow := rfl
theorem s4SerOut : Statement .s4SerOut := rfl
theorem s5Filler : Statement .s5Filler := rfl
theorem s6SettlePre : Statement .s6SettlePre := rfl
theorem s7LatchHigh : Statement .s7LatchHigh := rfl
theorem s8DeserIn : Statement .s8DeserIn := rfl
theorem s9SettlePost : Statement .s9SettlePost := rfl
theorem s10LatchLow : Statement .s10LatchLow := rfl
theorem s11Rel : Statement .s11Rel := rfl
theorem s12Loop : Statement .s12Loop := rfl
theorem lclr : Statement .lclr := rfl
theorem lset : Statement .lset := rfl
theorem topen : Statement .topen := rfl
theorem twrite : Statement .twrite := rfl
theorem tread : Statement .tread := rfl
theorem xacq : Statement .xacq := rfl
theorem xrel : Statement .xrel := rfl

end Sys2Proof.Laws.OpcodeRow
end

