-- ==== Sys2Proof/Tests/Slice0.lean ====
section
/-! SUPPORT. The model's own tests: ill-formed terms that the checks refuse, code words written out from the spec's
encodings, single transitions with the results of 95_test_vectors.md, and for every statement with premises a state
that meets them. -/

namespace Sys2Proof.Tests

open Sys2Proof Sys2Proof.Machine

/-! The states the tests are about. -/

/-- The configuration of every vector of 95_test_vectors.md, with values for the open parameters. -/
def cfg : Config where
  wordBytes := 4
  addrBits := 16
  lenBits := 8
  nBars := 8
  nFlows := 4
  nTransports := 2
  nLatches := 4
  nExcl := 2
  nPorts := 2
  granule := 1
  bitmap := []
  barWriteXor := true
  filler := 0xF5#8
  tSettlePre := 2
  tSettlePost := 3

/-- Reset, with that configuration and the bytes of vectors 2.4 and 2.7. -/
def base : State :=
  { State.reset with
    cfg := cfg
    mem := [(0x1000, 0xDB#8), (0x1001, 0x76#8), (0x1002, 0xB6#8), (0x1003, 0xEE#8), (0x2000, 0x11#8), (0x2001, 0x22#8)] }

/-- Configuration (A) of vector 2.7: both buffers, primitive 0. -/
def confA : FlowRecord := ⟨0, 0, 0, true, 0, true, 0x1000, 3, true, 0x2000, 2, 50⟩

/-- Configuration (B), vector FN1: output only. -/
def confB : FlowRecord := ⟨0, 0, 0, false, 0, true, 0x1000, 3, false, 0, 0, 50⟩

/-- Configuration (C), program P2: input only. -/
def confC : FlowRecord := ⟨1, 0, 1, false, 0, false, 0, 0, true, 0x2000, 1, 50⟩

/-- Configuration (D), program P5: no buffer. -/
def confD : FlowRecord := ⟨1, 1, 2, false, 0, false, 0, 0, false, 0, 0, 50⟩

/-- Whether a flow of this configuration holds its primitive at this step. -/
def holds (c : FlowRecord) (k : StepCode) : Bool := c.xp && decide (3#4 ≤ k ∧ k ≤ 11#4)

/-- A live flow at step `k` with `p` in flight and its period over. -/
def flowAt (c : FlowRecord) (k : StepCode) (p : PortOp) : Flow :=
  { Flow.reset with conf := c, phase := .live, pc := k, held := holds c k, opened := true, inflight := p }

/-- The level of the line of a flow at step `k`. -/
def levelAt (k : StepCode) : Level := if 8#4 ≤ k ∧ k ≤ 10#4 then .high else .low

/-- Flow 0 with this record of registers, its line and its primitive agreeing with its step. -/
def stateOf (fl : Flow) : State :=
  { base with
    flows := [(0, fl)]
    latches := if fl.phase = .live then [(fl.conf.latch, levelAt fl.pc)] else []
    owners := if fl.held then [(fl.conf.xid, some 0)] else [] }

/-- Flow 0 live at step `k`. -/
def stateAt (c : FlowRecord) (k : StepCode) (p : PortOp) : State := stateOf (flowAt c k p)

/-- The same, with an answer of a transport on its port. -/
def answerAt (c : FlowRecord) (k : StepCode) (p : PortOp) (cnt : Int) (data : List Byte) : State :=
  { stateAt c k p with bus := { Bus.reset with cnt := cnt, data := data } }

/-- Flow 0 constructed, with TOPEN in flight answered `ok`. -/
def openAt (ok : Bool) : State :=
  { stateOf { Flow.reset with conf := confB, phase := .constructed, inflight := .topen } with
    bus := { Bus.reset with ok := ok } }

/-- BARs 1 and 3 of vectors B2 and B11, and BAR 0 at index `i` with polarity `p`. -/
def barsAt (i : Nat) (p : Bool) : State :=
  { base with bars := [(0, ⟨true, ⟨0x1000, 3, i, p⟩⟩), (1, ⟨true, ⟨0x1000, 3, 23, true⟩⟩), (3, ⟨true, ⟨0x1000, 3, 23, false⟩⟩)] }

/-- The same, host port 0 in the middle of `bwrite b0, v` with the byte it read. -/
def midWrite (i : Nat) (p v : Bool) (old : List Byte) : State :=
  { barsAt i p with ports := [(0, ⟨false, .bwrite 0#12 v old⟩)] }

/-- A BNEW record on the side band. -/
def withBar (r : BarRecord) : State := { base with bus := { Bus.reset with bar := r } }

/-- An FNEW record on the side band. -/
def withConf (r : FlowRecord) : State := { base with bus := { Bus.reset with conf := r } }

/-- The next state, if there is one, passes the check. -/
def after (r : Res) (p : State → Bool) : Bool :=
  match r with
  | .next t => p t
  | _ => false

/-- The fault, if there is one. -/
def faultOf (r : Res) : Option Fault :=
  match r with
  | .fault e => some e
  | _ => none

/-- A check that a next state passes names one. -/
theorem next_of_after {r : Res} {p : State → Bool} (h : after r p = true) : ∃ t, r = .next t ∧ p t = true := by
  cases r with
  | next t => exact ⟨t, rfl, h⟩
  | fault e => cases h
  | refused e => cases h

/-! Well-formedness: a term for each check that the check refuses. -/

theorem test_wf_cfg : cfg.wf := by decide
theorem test_wf_word : ¬ ({ cfg with wordBytes := 3 } : Config).wf := by decide
theorem test_wf_word_space : ¬ ({ cfg with addrBits := 1 } : Config).wf := by decide
theorem test_wf_granule : ¬ ({ cfg with granule := 2 } : Config).wf := by decide
theorem test_wf_bars : ¬ ({ cfg with nBars := 4097 } : Config).wf := by decide
theorem test_wf_flows : ¬ ({ cfg with nFlows := 4097 } : Config).wf := by decide
theorem test_wf_settlePre : ¬ ({ cfg with tSettlePre := 0 } : Config).wf := by decide
theorem test_wf_settlePost : ¬ ({ cfg with tSettlePost := 0 } : Config).wf := by decide
/-- A bit map that turns the bits of each byte of a one-byte buffer round, and one that names a place twice. -/
theorem test_wf_bitmap : ({ cfg with bitmap := [(1, [7, 6, 5, 4, 3, 2, 1, 0])] } : Config).wf ∧
    ¬ ({ cfg with bitmap := [(1, [7, 6, 5, 4, 3, 2, 1, 1])] } : Config).wf := by decide
theorem test_fits_bar : (⟨0xFFFF, 255, 2047, true⟩ : BarRecord).fits cfg := by decide
theorem test_fits_base : ¬ (⟨0x10000, 1, 0, false⟩ : BarRecord).fits cfg := by decide
theorem test_fits_len : ¬ (⟨0, 256, 0, false⟩ : BarRecord).fits cfg := by decide
theorem test_fits_index : ¬ (⟨0, 1, 2048, false⟩ : BarRecord).fits cfg := by decide
theorem test_fits_conf : confA.fits cfg := by decide
theorem test_fits_optr : ¬ ({ confA with optr := 0x10000 } : FlowRecord).fits cfg := by decide
theorem test_fits_olen : ¬ ({ confA with olen := 256 } : FlowRecord).fits cfg := by decide
theorem test_fits_iptr : ¬ ({ confA with iptr := 0x10000 } : FlowRecord).fits cfg := by decide
theorem test_fits_ilen : ¬ ({ confA with ilen := 256 } : FlowRecord).fits cfg := by decide
theorem test_wf_instr : (Instr.bwrite 7#12 true).wf cfg ∧ (Instr.fnew 3#12).wf cfg ∧ Instr.s12Loop.wf cfg := by decide
theorem test_wf_bar_number : ¬ (Instr.bnew 8#12).wf cfg ∧ ¬ (Instr.bread 8#12).wf cfg ∧ ¬ (Instr.bwrite 8#12 true).wf cfg := by
  decide
theorem test_wf_flow_number : ¬ (Instr.fnew 4#12).wf cfg ∧ ¬ (Instr.finit 4#12).wf cfg ∧ ¬ (Instr.ftrig 4#12).wf cfg := by
  decide

/-! Decoding: the words of vector table 2.1 and of rules R96 to R98, bit by bit as `OP ID ZERO V`. -/

theorem test_decode_bnew : decodeH 0b0001_000000000111_000000000000000_0#32 = .ok (.bnew 7#12) := by decide
theorem test_decode_bread : decodeH 0b0010_000000000101_000000000000000_0#32 = .ok (.bread 5#12) := by decide
theorem test_decode_bwrite : decodeH 0b0011_000000000010_000000000000000_1#32 = .ok (.bwrite 2#12 true) := by decide
theorem test_decode_bwrite_last : decodeH 0b0011_111111111111_000000000000000_1#32 = .ok (.bwrite 4095#12 true) := by decide
theorem test_decode_fnew : decodeH 0b0100_000000000001_000000000000000_0#32 = .ok (.fnew 1#12) := by decide
theorem test_decode_finit : decodeH 0b0101_000000000000_000000000000000_0#32 = .ok (.finit 0#12) := by decide
theorem test_decode_ftrig : decodeH 0b0110_000000000011_000000000000000_0#32 = .ok (.ftrig 3#12) := by decide
theorem test_decode_op_0 : decodeH 0x00000000#32 = .error .opcode := by decide
theorem test_decode_op_7 : decodeH 0x70000000#32 = .error .opcode := by decide
theorem test_decode_op_15 : decodeH 0xF0000000#32 = .error .opcode := by decide
theorem test_decode_v_bread : decodeH 0x20050001#32 = .error .vBit := by decide
theorem test_decode_v_ftrig : decodeH 0x60030001#32 = .error .vBit := by decide
theorem test_decode_zero_1 : decodeH 0x30020002#32 = .error .zeroField := by decide
theorem test_decode_zero_15 : decodeH 0x30028000#32 = .error .zeroField := by decide
theorem test_decode_s1 : decodeS 0b0001#4 = .ok .s1Wait := by decide
theorem test_decode_s2 : decodeS 0b0010#4 = .ok .s2Acq := by decide
theorem test_decode_s3 : decodeS 0b0011#4 = .ok .s3LatchLow := by decide
theorem test_decode_s4 : decodeS 0b0100#4 = .ok .s4SerOut := by decide
theorem test_decode_s5 : decodeS 0b0101#4 = .ok .s5Filler := by decide
theorem test_decode_s6 : decodeS 0b0110#4 = .ok .s6SettlePre := by decide
theorem test_decode_s7 : decodeS 0b0111#4 = .ok .s7LatchHigh := by decide
theorem test_decode_s8 : decodeS 0b1000#4 = .ok .s8DeserIn := by decide
theorem test_decode_s9 : decodeS 0b1001#4 = .ok .s9SettlePost := by decide
theorem test_decode_s10 : decodeS 0b1010#4 = .ok .s10LatchLow := by decide
theorem test_decode_s11 : decodeS 0b1011#4 = .ok .s11Rel := by decide
theorem test_decode_s12 : decodeS 0b1100#4 = .ok .s12Loop := by decide
theorem test_decode_s_unused : decodeS 0#4 = .error .stepCode ∧ decodeS 13#4 = .error .stepCode ∧
    decodeS 15#4 = .error .stepCode := by decide
theorem test_decode_lclr : decodeP 0b001#3 = .ok .lclr := by decide
theorem test_decode_lset : decodeP 0b010#3 = .ok .lset := by decide
theorem test_decode_topen : decodeP 0b011#3 = .ok .topen := by decide
theorem test_decode_twrite : decodeP 0b100#3 = .ok .twrite := by decide
theorem test_decode_tread : decodeP 0b101#3 = .ok .tread := by decide
theorem test_decode_xacq : decodeP 0b110#3 = .ok .xacq := by decide
theorem test_decode_xrel : decodeP 0b111#3 = .ok .xrel := by decide
theorem test_decode_p_unused : decodeP 0#3 = .error .portCode := by decide
theorem test_encode_bwrite : encode (.bwrite 2#12 true) = .h 0x30020001#32 := by decide
theorem test_table_word : decodeTableWord 32 0x30020001 = some (.bwrite 2#12 true) ∧
    decodeTableWord 8 12 = some .s12Loop ∧ decodeTableWord 3 6 = some .xacq ∧ decodeTableWord 32 0 = none := by decide

/-! Single transitions, with the results of the vectors. -/

/-- Vector B10. -/
theorem test_bnew_top : after (exec (.bnew 2#12) (withBar ⟨0xFFFC, 4, 31, false⟩))
    (fun t => t.bar 2 == ⟨true, ⟨0xFFFC, 4, 31, false⟩⟩ && !t.refused && !t.fatal) = true := by decide
/-- Vectors B3, B6, B7, B8, B9. -/
theorem test_bnew_bad :
    after (exec (.bnew 2#12) (withBar ⟨0x1000, 3, 24, false⟩))
      (fun t => t.fatal && t.fatalCause.code == 5#3 && t.fatalUnit == 2 && !(t.bar 2).valid) = true ∧
    after (exec (.bnew 2#12) (withBar ⟨0x1001, 3, 99, false⟩)) (fun t => t.refusedWhy == some .barBaseUnaligned) = true ∧
    after (exec (.bnew 0#12) (barsAt 0 false)) (fun t => t.refusedWhy == some .badId) = true ∧
    after (exec (.bnew 8#12) base) (fun t => t.refusedWhy == some .badId) = true ∧
    after (exec (.bnew 2#12) (withBar ⟨0xFFFC, 8, 0, false⟩)) (fun t => t.refusedWhy == some .bufferWraps) = true := by
  decide
/-- Vectors RD3, RD9. -/
theorem test_bread :
    after (exec (.bread 0#12) (barsAt 2 true)) (fun t => (t.port 0).result) = true ∧
    after (exec (.bread 3#12) (barsAt 2 true)) (fun t => (t.port 0).result) = true := by decide
/-- Vector RD10. -/
theorem test_bread_invalid :
    after (exec (.bread 6#12) (barsAt 2 true)) (fun t => t.refusedWhy == some .badId && !(t.port 0).result) = true := by
  decide
/-- Vectors W1, W3, W5, W7: the write-back. -/
theorem test_bwrite :
    after (exec (.bwrite 0#12 true) (midWrite 2 false true [0xDB#8])) (fun t => t.byteAt 0x1000 == 0xDF#8) = true ∧
    after (exec (.bwrite 0#12 false) (midWrite 2 true false [0xDB#8])) (fun t => t.byteAt 0x1000 == 0xDF#8) = true ∧
    after (exec (.bwrite 0#12 true) (midWrite 7 true true [0xDB#8])) (fun t => t.byteAt 0x1000 == 0x5B#8) = true ∧
    after (exec (.bwrite 0#12 false) (midWrite 23 false false [0xB6#8])) (fun t => t.byteAt 0x1002 == 0x36#8) = true := by
  decide
/-- Vector X1 without the overlap: after a BWRITE of context 1, context 0 races in its word, until they synchronise. -/
theorem test_bwrite_unordered :
    faultOf (exec (.bwrite 0#12 true) { barsAt 2 true with writes := [⟨0x400, 1, true, []⟩] }) = some (.race 0x1000) ∧
    after (exec (.bwrite 0#12 true) ({ barsAt 2 true with writes := [⟨0x400, 1, true, []⟩] }.synced 1 0))
      (fun t => (t.port 0).pending == .bwrite 0#12 true [0xDB#8]) = true := by decide
/-- The same with two direct writes, neither of which is a BWRITE: no race. -/
theorem test_ownerWrite_noted :
    after (step { base with writes := [⟨0x400, 1, false, []⟩], script := [.ownerWrite 0 0x1001 1#8] })
      (fun t => t.byteAt 0x1001 == 1#8 && t.writes == [⟨0x400, 0, false, []⟩, ⟨0x400, 1, false, []⟩]) = true ∧
    faultOf (step { base with writes := [⟨0x400, 1, true, []⟩], script := [.ownerWrite 0 0x1001 1#8] }) =
      some (.race 0x1001) := by decide
/-- Vector W9: a granule of four bytes, read and written back. -/
theorem test_bwrite_word :
    after (exec (.bwrite 0#12 false) { barsAt 10 false with cfg := { cfg with granule := 4 } })
      (fun t => (t.port 0).pending == .bwrite 0#12 false [0xDB#8, 0x76#8, 0xB6#8, 0xEE#8]) = true ∧
    after (exec (.bwrite 0#12 false)
        { midWrite 10 false false [0xDB#8, 0x76#8, 0xB6#8, 0xEE#8] with cfg := { cfg with granule := 4 } })
      (fun t => t.readBytes 0x1000 4 == some [0xDB#8, 0x72#8, 0xB6#8, 0xEE#8]) = true := by decide
/-- Vectors FN1, FN16. -/
theorem test_fnew :
    after (exec (.fnew 0#12) (withConf confB)) (fun t => t.flow 0 == { Flow.reset with conf := confB, phase := .constructed })
      = true ∧
    after (exec (.fnew 0#12) (withConf { confB with olen := 4, ip := true, iptr := 0x1000, ilen := 4 }))
      (fun t => (t.flow 0).phase == .constructed) = true := by decide
/-- Vectors FN2, FN6, FN8, FN10, FN11, FN15. -/
theorem test_fnew_bad :
    after (exec (.fnew 0#12) (withConf { confB with optr := 0x1002 }))
      (fun t => t.fatalCause.code == 2#3 && t.fatalUnit == 0 && (t.flow 0).phase == .void) = true ∧
    after (exec (.fnew 0#12) (withConf { confB with period := 0 })) (fun t => t.refusedWhy == some .badPeriod) = true ∧
    after (exec (.fnew 0#12) (withConf { confB with tport := 2 })) (fun t => t.refusedWhy == some .badId) = true ∧
    after (exec (.fnew 1#12) { stateAt confB 1#4 .none with bus := { Bus.reset with conf := confC } })
      (fun t => t.refusedWhy == some .sharing) = true ∧
    after (exec (.fnew 1#12) { stateAt confB 1#4 .none with bus := { Bus.reset with conf := { confC with tport := 1, latch := 0 } } })
      (fun t => t.refusedWhy == some .sharing) = true ∧
    after (exec (.fnew 0#12) (withConf { confB with optr := 0x1001, olen := 0 })) (fun t => t.refusedWhy == some .zeroLength)
      = true := by decide
/-- Vector I1, the issue of TOPEN, and I3. -/
theorem test_finit :
    after (exec (.finit 0#12) (stateOf { Flow.reset with conf := confB, phase := .constructed }))
      (fun t => (t.flow 0).inflight == .topen && (t.port 0).pending == .finit 0) = true ∧
    after (exec (.finit 0#12) base) (fun t => t.refusedWhy == some .badPhase) = true := by decide
/-- Vectors I5, I8. -/
theorem test_ftrig :
    after (exec (.ftrig 0#12) (stateAt confB 6#4 .none)) (fun t => (t.flow 0).trig && (t.flow 0).pc == 6#4) = true ∧
    after (exec (.ftrig 0#12) (stateOf { Flow.reset with conf := confB, phase := .constructed }))
      (fun t => t.refusedWhy == some .badPhase && !(t.flow 0).trig) = true := by decide
/-- Vectors I9 and S1 of 2.7. -/
theorem test_s1 :
    after (exec .s1Wait (stateOf { flowAt confB 1#4 .none with trig := true }))
      (fun t => (t.flow 0).pc == 2#4 && !(t.flow 0).trig && t.trace == [.wait 0 .trigger]) = true ∧
    after (exec .s1Wait (stateAt confB 1#4 .none)) (fun t => (t.flow 0).pc == 2#4 && t.trace == [.wait 0 .period]) = true := by
  decide
/-- Row S2 with and without a primitive. -/
theorem test_s2 :
    after (exec .s2Acq (stateAt confA 2#4 .none)) (fun t => (t.flow 0).pc == 2#4 && (t.flow 0).inflight == .xacq 0) = true ∧
    after (exec .s2Acq (stateAt confB 2#4 .none)) (fun t => (t.flow 0).pc == 3#4 && t.trace == []) = true := by decide
/-- Row S3. -/
theorem test_s3 : after (exec .s3LatchLow (stateAt confA 3#4 .none))
    (fun t => (t.flow 0).pc == 4#4 && t.latch 0 == .low && t.trace == [.lclr 0 0]) = true := by decide
/-- Row S4: the last of the three bytes, and the issue of the write. -/
theorem test_s4 :
    after (exec .s4SerOut (stateOf { flowAt confA 4#4 .none with work := .gather [0xDB#8, 0x76#8] }))
      (fun t => (t.flow 0).work == .gather [0xDB#8, 0x76#8, 0xB6#8]) = true ∧
    after (exec .s4SerOut (stateOf { flowAt confA 4#4 .none with work := .gather [0xDB#8, 0x76#8, 0xB6#8] }))
      (fun t => (t.flow 0).inflight == .twrite [0xDB#8, 0x76#8, 0xB6#8] 3) = true := by decide
/-- Row S5 of configurations (A) and (C). -/
theorem test_s5 :
    after (exec .s5Filler (stateAt confA 5#4 .none)) (fun t => (t.flow 0).pc == 6#4 && t.trace == []) = true ∧
    after (exec .s5Filler (stateAt confC 5#4 .none)) (fun t => (t.flow 0).inflight == .twrite [0xF5#8] 1) = true := by decide
/-- Row S6: a hold that has been counted down ends, one that has not lasts. -/
theorem test_s6 :
    after (exec .s6SettlePre (stateAt confA 6#4 (.delay .pre))) (fun t => (t.flow 0).pc == 7#4 && t.trace == [.delay 0 .pre]) = true ∧
    after (exec .s6SettlePre (stateOf { flowAt confA 6#4 (.delay .pre) with hold := 1 })) (fun t => (t.flow 0).pc == 6#4) = true := by
  decide
/-- Row S7. -/
theorem test_s7 : after (exec .s7LatchHigh (stateAt confA 7#4 .none))
    (fun t => (t.flow 0).pc == 8#4 && t.latch 0 == .high && t.trace == [.lset 0 0]) = true := by decide
/-- Row S8: the second byte of `[C3, 3C]` goes to 0x2001, and then the step is over. -/
theorem test_s8 :
    after (exec .s8DeserIn (stateOf { flowAt confA 8#4 .none with work := .store 1 [0x3C#8] }))
      (fun t => t.byteAt 0x2000 == 0x11#8 && t.byteAt 0x2001 == 0x3C#8 && (t.flow 0).pc == 8#4) = true ∧
    after (exec .s8DeserIn (stateOf { flowAt confA 8#4 .none with work := .store 2 [] })) (fun t => (t.flow 0).pc == 9#4) = true := by
  decide
/-- Row S9: the hold begins with `T_SETTLE_POST` and ends with its event. -/
theorem test_s9 :
    after (exec .s9SettlePost (stateAt confA 9#4 .none)) (fun t => (t.flow 0).hold == 3 && (t.flow 0).pc == 9#4) = true ∧
    after (exec .s9SettlePost (stateAt confA 9#4 (.delay .post)))
      (fun t => (t.flow 0).pc == 10#4 && t.trace == [.delay 0 .post]) = true := by decide
/-- Row S10. -/
theorem test_s10 : after (exec .s10LatchLow (stateAt confA 10#4 .none))
    (fun t => (t.flow 0).pc == 11#4 && t.latch 0 == .low && t.trace == [.lclr 0 0]) = true := by decide
/-- Row S11 with and without a primitive. -/
theorem test_s11 :
    after (exec .s11Rel (stateAt confA 11#4 .none))
      (fun t => (t.flow 0).pc == 12#4 && !(t.flow 0).held && t.owner 0 == none && t.trace == [.xrel 0 0]) = true ∧
    after (exec .s11Rel (stateAt confB 11#4 .none)) (fun t => (t.flow 0).pc == 12#4 && t.trace == []) = true := by decide
/-- Row S12, a trigger kept. -/
theorem test_s12 : after (exec .s12Loop (stateOf { flowAt confA 12#4 .none with trig := true }))
    (fun t => (t.flow 0).pc == 1#4 && (t.flow 0).timer == 50 && (t.flow 0).trig) = true := by decide
/-- Vectors O1, O3. -/
theorem test_latch_port :
    after (exec .lclr (stateAt confA 1#4 .lclr)) (fun t => t.latch 0 == .low && t.trace == [.lclr 0 0]) = true ∧
    after (exec .lset (stateAt confA 1#4 .lset)) (fun t => t.latch 0 == .high && t.trace == [.lset 0 0]) = true := by decide
/-- Vectors I1 and F1. -/
theorem test_topen :
    after (exec .topen (openAt true)) (fun t => (t.flow 0).phase == .live && (t.flow 0).pc == 1#4 && (t.flow 0).timer == 50 &&
      (t.flow 0).opened && t.latch 0 == .x && t.trace == [.topen 0 0 true]) = true ∧
    after (exec .topen (openAt false)) (fun t => t.fatalCause.code == 1#3 && (t.flow 0).phase == .constructed &&
      t.trace == [.topen 0 0 false, .fatal .initOpenFail 0]) = true := by decide
/-- Vectors O5, F3, F4. -/
theorem test_twrite :
    after (exec .twrite (answerAt confA 4#4 (.twrite [0xDB#8, 0x76#8, 0xB6#8] 3) 3 [])) (fun t => (t.flow 0).pc == 5#4) = true ∧
    after (exec .twrite (answerAt confA 4#4 (.twrite [0xDB#8, 0x76#8, 0xB6#8] 3) 2 []))
      (fun t => t.fatalCause.code == 3#3 && (t.flow 0).pc == 4#4 && (t.flow 0).held && t.latch 0 == .low) = true ∧
    after (exec .twrite (answerAt confC 5#4 (.twrite [0xF5#8] 1) 0 []))
      (fun t => t.fatalCause.code == 3#3 && t.trace == [.twrite 0 0 [0xF5#8] 0, .fatal .ioShortWrite 0]) = true := by decide
/-- Vectors O9 and F5. -/
theorem test_tread :
    after (exec .tread (answerAt confC 8#4 (.tread 1) 1 [0x5A#8])) (fun t => (t.flow 0).work == .store 0 [0x5A#8]) = true ∧
    after (exec .tread (answerAt confA 8#4 (.tread 2) 1 [0x99#8]))
      (fun t => t.fatalCause.code == 4#3 && (t.flow 0).pc == 8#4 && t.latch 0 == .high && t.byteAt 0x2000 == 0x11#8) = true := by
  decide
/-- Vectors O11 and O12. -/
theorem test_xacq :
    after (exec .xacq (stateAt confA 2#4 (.xacq 0)))
      (fun t => t.owner 0 == some 0 && (t.flow 0).held && (t.flow 0).pc == 3#4 && t.trace == [.xacq 0 0]) = true ∧
    after (exec .xacq { stateAt confA 2#4 (.xacq 0) with owners := [(0, some 1)] })
      (fun t => (t.flow 0).pc == 2#4 && t.owner 0 == some 1 && t.trace == []) = true := by decide
/-- Vector O13. -/
theorem test_xrel : after (exec .xrel { stateAt confA 1#4 .xrel with owners := [(0, some 0)] })
    (fun t => t.owner 0 == none && t.trace == [.xrel 0 0]) = true := by decide
/-- Vector F7: after a halt no operation has a step. -/
theorem test_halted : faultOf (exec (.ftrig 0#12) ((stateAt confA 8#4 .none).raiseFatal .ioShortRead 0)) =
    some (.halted .ioShortRead 0) := by decide
/-- A word, a step and a port operation placed for the next transition run. -/
theorem test_placed :
    after (step (State.reset.withFetchWord 32 0x50000000)) (fun t => t.refusedWhy == some .badPhase) = true ∧
    after (step (State.reset.withFetchWord 4 3)) (fun t => t.trace == [.lclr 0 0]) = true ∧
    after (step (State.reset.withFetchWord 3 6)) (fun t => t.trace == [.xacq 0 0]) = true := by decide

/-! States that meet the invariant: a computed check over the numbers below 4, for states that list no others. -/

/-- `InflightOk` as a computation. -/
def inflightCheck (c : Config) (fl : Flow) : Bool :=
  match fl.inflight with
  | .none => true
  | .topen => decide (fl.phase = .constructed)
  | .twrite bytes n => decide (bytes.length = n ∧ fl.phase = .live ∧
      ((fl.pc = 4#4 ∧ fl.conf.op = true ∧ n = fl.conf.olen) ∨
        (fl.pc = 5#4 ∧ fl.conf.op = false ∧ fl.conf.ip = true ∧ bytes = [c.filler])))
  | .tread n => decide (fl.phase = .live ∧ fl.pc = 8#4 ∧ fl.conf.ip = true ∧ n = fl.conf.ilen)
  | .xacq x => decide (fl.phase = .live ∧ fl.pc = 2#4 ∧ fl.conf.xp = true ∧ x = fl.conf.xid)
  | .delay .pre => decide (fl.phase = .live ∧ fl.pc = 6#4)
  | .delay .post => decide (fl.phase = .live ∧ fl.pc = 9#4)
  | .lclr | .lset | .xrel => false

/-- `WorkOk` as a computation. -/
def workCheck (fl : Flow) : Bool :=
  match fl.work with
  | .idle => true
  | .gather got => decide (fl.phase = .live ∧ fl.pc = 4#4 ∧ fl.conf.op = true ∧ fl.inflight = .none ∧ got.length ≤ fl.conf.olen)
  | .store k rest => decide (fl.phase = .live ∧ fl.pc = 8#4 ∧ fl.conf.ip = true ∧ fl.inflight = .none ∧
      k + rest.length = fl.conf.ilen)

/-- `FlowOk` as a computation. -/
def flowCheck (c : Config) (fl : Flow) : Bool :=
  decide (fl.phase ≠ .live → fl.pc = 0#4 ∧ fl.trig = false ∧ fl.held = false) &&
  decide (fl.phase = .live → 1#4 ≤ fl.pc ∧ fl.pc ≤ 12#4 ∧ 0 ≤ fl.timer) &&
  decide (fl.opened = true ↔ fl.phase = .live) &&
  decide (fl.held = true ↔ fl.conf.xp = true ∧ fl.inBusSteps) && inflightCheck c fl && workCheck fl

/-- A write-back in progress on port `h` is of a valid BAR and up to date. -/
def writerCheck (s : State) (h : Nat) : Bool :=
  match (s.port h).pending with
  | .bwrite b _ old => decide (s.hasBar b ∧ old = s.granuleAt (s.addrOf b.toNat))
  | _ => true

/-- The numbers listed are below 4, and so are the owners. -/
def smallCheck (s : State) : Bool :=
  s.bars.all (fun e => decide (e.1 < 4)) && s.flows.all (fun e => decide (e.1 < 4)) &&
  s.latches.all (fun e => decide (e.1 < 4)) &&
  s.owners.all (fun e => decide (e.1 < 4 ∧ ∀ f ∈ e.2, f < 4)) && s.ports.all (fun e => decide (e.1 < 1))

/-- Every number below 4 has the property. -/
def below4 (p : Nat → Bool) : Bool := (List.range 4).all p

/-- `Inv` as a computation, but for the parameters. -/
def invCheck (s : State) : Bool :=
  smallCheck s && decide (Memory.wf s.mem) &&
  below4 (fun b => decide ((s.bar b).valid = true → b < s.cfg.nBars ∧ BarOk s.cfg (s.bar b).desc)) &&
  below4 (fun f => decide ((s.flow f).phase ≠ .void → f < s.cfg.nFlows ∧ ConfOk s.cfg (s.flow f).conf)) &&
  below4 (fun f => below4 fun g => decide (f ≠ g → (s.flow f).phase ≠ .void → (s.flow g).phase ≠ .void →
    (s.flow f).conf.mayShare (s.flow g).conf)) &&
  below4 (fun f => flowCheck s.cfg (s.flow f)) &&
  below4 (fun x => below4 fun f => decide (s.owner x = some f ↔ (s.flow f).held = true ∧ (s.flow f).conf.xid = x)) &&
  below4 (fun f => decide ((s.flow f).held = true → (s.flow f).conf.xid < 4)) &&
  below4 (fun f => decide ((s.flow f).phase = .live →
    (4#4 ≤ (s.flow f).pc → (s.flow f).pc ≤ 7#4 → s.latch (s.flow f).conf.latch = .low) ∧
    (8#4 ≤ (s.flow f).pc → (s.flow f).pc ≤ 10#4 → s.latch (s.flow f).conf.latch = .high) ∧
    (11#4 ≤ (s.flow f).pc → s.latch (s.flow f).conf.latch = .low) ∧
    ((s.flow f).pc ≤ 3#4 → s.latch (s.flow f).conf.latch ≠ .high))) &&
  below4 (fun l => decide (s.latch l = .x) ||
    (List.range 4).any fun f => decide ((s.flow f).phase = .live ∧ (s.flow f).conf.latch = l)) &&
  below4 (fun f => below4 fun g =>
    decide (f ≠ g → (s.flow f).running → (s.flow g).running → (s.flow f).conf.ctx ≠ (s.flow g).conf.ctx)) &&
  decide (s.fatal = false ↔ s.fatalCause = .none) && writerCheck s 0 && decide (0 < s.cfg.nPorts)

theorem below4_iff {p : Nat → Bool} : below4 p = true ↔ ∀ k < 4, p k = true := by
  simp only [below4, List.all_eq_true, List.mem_range]

theorem inflight_of_check {c : Config} {fl : Flow} (h : inflightCheck c fl = true) : InflightOk c fl := by
  unfold inflightCheck at h
  unfold InflightOk
  split at h <;> simp_all

theorem work_of_check {fl : Flow} (h : workCheck fl = true) : WorkOk fl := by
  unfold workCheck at h
  unfold WorkOk
  split at h <;> simp_all

theorem flow_of_check {c : Config} {fl : Flow} (h : flowCheck c fl = true) : FlowOk c fl := by
  simp only [flowCheck, Bool.and_eq_true, decide_eq_true_eq] at h
  obtain ⟨⟨⟨⟨⟨h1, h2⟩, h3⟩, h4⟩, h5⟩, h6⟩ := h
  exact ⟨h1, h2, h3, h4, inflight_of_check h5, work_of_check h6⟩

/-- A number above all those listed is not listed. -/
theorem find_above {α : Type} {t : List (Nat × α)} {n a : Nat} (h : ∀ e ∈ t, e.1 < n) (ha : n ≤ a) : tableFind t a = none := by
  induction t with
  | nil => rfl
  | cons e rest ih =>
    obtain ⟨k, w⟩ := e
    have hk : k < n := h (k, w) List.mem_cons_self
    rw [tableFind, if_neg (by omega), ih fun e he => h e (List.mem_cons_of_mem _ he)]

theorem inv_of_check {s : State} (hc : s.cfg.wf) (h : invCheck s = true) : Inv s := by
  simp only [invCheck, smallCheck, Bool.and_eq_true, below4_iff, decide_eq_true_eq, List.all_eq_true] at h
  obtain ⟨⟨⟨⟨⟨⟨⟨⟨⟨⟨⟨⟨⟨⟨⟨⟨⟨kb, kf⟩, kl⟩, ko⟩, kp⟩, hm⟩, hb⟩, hf⟩, hs⟩, hw⟩, hx⟩, hd⟩, hl⟩, hv⟩, hr⟩, hh⟩, hwr⟩, hn⟩ := h
  have eb : ∀ b, 4 ≤ b → s.bar b = Bar.reset := fun b hb => by rw [State.bar, find_above kb hb]; rfl
  have ef : ∀ f, 4 ≤ f → s.flow f = Flow.reset := fun f hf => by rw [State.flow, find_above kf hf]; rfl
  have el : ∀ l, 4 ≤ l → s.latch l = .x := fun l hl => by rw [State.latch, find_above kl hl]; rfl
  have eo : ∀ x, 4 ≤ x → s.owner x = none := fun x hx => by
    rw [State.owner, find_above (fun e he => (ko e he).1) hx]; rfl
  have ep : ∀ h, 1 ≤ h → (s.port h).pending = .none := fun h hh => by rw [State.port, find_above kp hh]; rfl
  have fl4 : ∀ f, (s.flow f).phase ≠ .void → f < 4 := fun f h => by
    by_contra hn; rw [ef f (by omega)] at h; exact h rfl
  have live4 : ∀ f, (s.flow f).phase = .live → f < 4 := fun f h => fl4 f (by rw [h]; decide)
  have own4 : ∀ x f, s.owner x = some f → x < 4 ∧ f < 4 := fun x f h => by
    have hx : x < 4 := by by_contra hn; rw [eo x (by omega)] at h; cases h
    refine ⟨hx, ?_⟩
    unfold State.owner at h
    cases ht : tableFind s.owners x with
    | none => rw [ht] at h; cases h
    | some o =>
      rw [ht] at h
      exact (ko _ (find_mem ht)).2 f (by simpa using h)
  have p0 : ∀ h b v old, (s.port h).pending = .bwrite b v old → h = 0 := fun h b v old hp => by
    by_contra hn; rw [ep h (by omega)] at hp; cases hp
  exact
    { cfg := hc
      mem := hm
      bars := fun b h => hb b (by by_contra hn; rw [eb b (by omega)] at h; cases h) h
      confs := fun f h => hf f (fl4 f h) h
      sharing := fun f g hne h1 h2 => hs f (fl4 f h1) g (fl4 g h2) hne h1 h2
      flows := fun f => by
        by_cases hf4 : f < 4
        · exact flow_of_check (hw f hf4)
        · rw [ef f (by omega)]
          exact flow_of_check rfl
      owners := fun x f => by
        constructor
        · intro h
          obtain ⟨h1, h2⟩ := own4 x f h
          exact (hx x h1 f h2).1 h
        · rintro ⟨h1, rfl⟩
          have hf4 : f < 4 := by by_contra hn; rw [ef f (by omega)] at h1; cases h1
          exact (hx _ (hd f hf4 h1) f hf4).2 ⟨h1, rfl⟩
      latches := fun f h => hl f (live4 f h) h
      driven := fun l h => by
        have := hv l (by by_contra hn; exact h (el l (by omega)))
        simp only [h, decide_false, Bool.false_or, List.any_eq_true, decide_eq_true_eq] at this
        obtain ⟨f, -, hf⟩ := this
        exact ⟨f, hf⟩
      contexts := fun f g hne h1 h2 => hr f (live4 f h1.1) g (live4 g h2.1) hne h1 h2
      halt := hh
      writers := fun h b v old hp => by
        obtain rfl := p0 h b v old hp
        rw [writerCheck, hp] at hwr
        have := of_decide_eq_true hwr
        exact ⟨hn, this.1, this.2⟩
      apart := fun h g b c v u old new hne h1 h2 => by
        rw [p0 h _ _ _ h1, p0 g _ _ _ h2] at hne; exact absurd rfl hne }

/-! For every statement with premises, states that meet them: for each clause one, at the edge of its range. -/

/-- With these inputs to come. -/
def withScript (s : State) (xs : List Input) : State := { s with script := xs }

/-- Flow 0 constructed and idle. -/
def constructed : State := stateOf { Flow.reset with conf := confB, phase := .constructed }

/-- Configuration (A) with flow 0 in step `k`, and the same with its wait or its step further on. -/
def inWork (k : StepCode) (w : Work) : State := stateOf { flowAt confA k .none with work := w }

/-- Configuration (A) in step 8, and BAR 0 over its IN buffer. -/
def samplingBar : State := { stateAt confA 8#4 .none with bars := [(0, ⟨true, ⟨0x2000, 1, 1, false⟩⟩)] }

/-- Two flows on the bus at once, on different transports. -/
def twoFlows : State :=
  { base with
    flows := [(0, flowAt confA 11#4 .none), (1, flowAt confD 3#4 .none)], latches := [(0, .low)], owners := [(0, some 0)] }

/-- The flow of one whole cycle, its inputs to come. -/
def cycleStart (c : FlowRecord) (trig : Bool) (data : List Byte) : State :=
  withScript (stateOf { flowAt c 1#4 .none with trig := trig }) (cycleInputs cfg 0 c data ++ [.tick 0])

theorem test_meets_DecodeEncodeAgree : decode (.h 0x30020001#32) = .ok (.bwrite 2#12 true) ∧
    decode (.s 12#4) = .ok .s12Loop ∧ decode (.p 7#3) = .ok .xrel := by decide

theorem test_meets_StepRunsDecodedInstruction_host :
    let s := withScript base [.host 1 0x10000000#32 ⟨0xFFFF, 255, 2047, true⟩ confA]
    s.fatal = false ∧ nextInput s = .host 1 0x10000000#32 ⟨0xFFFF, 255, 2047, true⟩ confA ∧ s.portFree 1 = true ∧
    (⟨0xFFFF, 255, 2047, true⟩ : BarRecord).fits s.cfg ∧ confA.fits s.cfg ∧ decodeH 0x10000000#32 = .ok (.bnew 0#12) := by
  decide
theorem test_meets_StepRunsDecodedInstruction_step :
    let s := withScript (stateAt confA 12#4 .none) [.sequencer 0]
    s.fatal = false ∧ nextInput s = .sequencer 0 ∧ 0 < s.cfg.nFlows ∧ (s.flow 0).phase = .live ∧
    decodeS (s.flow 0).pc = .ok .s12Loop := by decide
theorem test_meets_StepRunsDecodedInstruction_answer :
    let s := withScript (stateAt confA 8#4 (.tread 2)) [.answer 0 true 2 [1#8, 2#8]]
    s.fatal = false ∧ nextInput s = .answer 0 true 2 [1#8, 2#8] ∧ 0 < s.cfg.nFlows ∧
    decodeP (s.flow 0).inflight.code = .ok .tread := by decide
theorem test_meets_StepRunsDecodedInstruction_resume :
    let s := withScript (midWrite 2 true true [0xDB#8]) [.resume 0]
    s.fatal = false ∧ nextInput s = .resume 0 ∧ (s.port 0).pending = .bwrite 0#12 true [0xDB#8] := by decide

theorem test_meets_IllegalWordIsRefused :
    let s := withScript base [.host 0 0x7FFF0000#32 ⟨0, 1, 0, false⟩ confB]
    s.clean ∧ nextInput s = .host 0 0x7FFF0000#32 ⟨0, 1, 0, false⟩ confB ∧ s.portFree 0 = true ∧
    (⟨0, 1, 0, false⟩ : BarRecord).fits s.cfg ∧ confB.fits s.cfg ∧ decodeH 0x7FFF0000#32 = .error .opcode := by decide

theorem test_meets_HaltIsLeftOnlyByRestart :
    let s := (stateAt confA 8#4 .none).raiseFatal .ioShortRead 0
    s.fatal = true ∧ nextInput (withScript s [.sequencer 0]) ≠ .restart ∧
    nextInput (withScript s [.restart]) = .restart := by decide

theorem test_meets_HaltChangesNothingElse : ∃ t, step (withScript (stateAt confA 8#4 (.tread 2)) [.answer 0 true 1 [0x99#8]])
    = .next t ∧ (withScript (stateAt confA 8#4 (.tread 2)) [.answer 0 true 1 [0x99#8]]).fatal = false ∧ t.fatal = true := by
  obtain ⟨t, h, ht⟩ := next_of_after (p := fun t => t.fatal)
    (r := step (withScript (stateAt confA 8#4 (.tread 2)) [.answer 0 true 1 [0x99#8]])) (by decide)
  exact ⟨t, h, rfl, ht⟩

theorem test_meets_BnewStoresDescriptor :
    let s := withBar ⟨0xFFFC, 4, 31, false⟩
    s.portReady ∧ (7#12 : Id).toNat < s.cfg.nBars ∧ (s.bar 7).valid = false ∧ BarOk s.cfg s.bus.bar := by decide

/-- One state for each branch: number 8 of 8, a base off by one, an end one past the top, an index one past the last. -/
theorem test_meets_BnewRefusalsThenRangeHalt :
    (base.portReady ∧ ¬ (8#12 : Id).toNat < base.cfg.nBars) ∧
    ((barsAt 0 false).portReady ∧ ((barsAt 0 false).bar 3).valid = true) ∧
    (let s := withBar ⟨0x1001, 3, 99, false⟩
     s.portReady ∧ ¬ (¬ 2 < s.cfg.nBars ∨ (s.bar 2).valid = true) ∧ s.bus.bar.base % s.cfg.wordBytes ≠ 0) ∧
    (let s := withBar ⟨0xFFFC, 5, 0, false⟩
     s.portReady ∧ ¬ (¬ 2 < s.cfg.nBars ∨ (s.bar 2).valid = true) ∧ ¬ s.bus.bar.base % s.cfg.wordBytes ≠ 0 ∧
      s.bus.bar.base + s.bus.bar.len > 2 ^ s.cfg.addrBits) ∧
    (let s := withBar ⟨0xFFFC, 4, 32, false⟩
     s.portReady ∧ ¬ (¬ 2 < s.cfg.nBars ∨ (s.bar 2).valid = true) ∧ ¬ s.bus.bar.base % s.cfg.wordBytes ≠ 0 ∧
      ¬ s.bus.bar.base + s.bus.bar.len > 2 ^ s.cfg.addrBits ∧ s.bus.bar.index ≥ 8 * s.bus.bar.len) := by decide

theorem test_meets_BreadReturnsTargetBit :
    (let s := barsAt 0 true
     s.portReady ∧ s.hasBar 3#12 ∧ BarOk s.cfg (s.bar 3).desc ∧ s.hasBar 0#12 ∧ BarOk s.cfg (s.bar 0).desc) ∧
    ¬ (barsAt 0 true).hasBar 2#12 := by decide

theorem test_meets_BwriteReadsGranule :
    (let s := barsAt 23 true
     s.portReady ∧ s.hasBar 0#12 ∧ s.hostRace s.bus.hport (s.addrOf 0) true = false ∧
      s.granuleExists (s.addrOf 0)) ∧
    ¬ (barsAt 23 true).hasBar 2#12 := by decide

theorem test_meets_BwriteWritesGranuleBack :
    let s : State := { midWrite 10 false false [0xDB#8, 0x76#8, 0xB6#8, 0xEE#8] with cfg := { cfg with granule := 4 } }
    s.clean ∧ s.bus.hport < s.cfg.nPorts ∧
    (s.port s.bus.hport).pending = .bwrite 0#12 false [0xDB#8, 0x76#8, 0xB6#8, 0xEE#8] ∧
    [0xDB#8, 0x76#8, 0xB6#8, 0xEE#8].length = s.cfg.granule ∧ 0 < s.cfg.granule ∧
    s.hostRace s.bus.hport (s.addrOf 0) true = false ∧ s.granuleExists (s.addrOf 0) := by decide

/-- Vector X1: another port is in the middle of a write over the same word, as the first event and as the second. -/
theorem test_meets_BwriteRaceIsFault_bars :
    (let s : State := { barsAt 2 true with ports := [(1, ⟨false, .bwrite 3#12 true [0xB6#8]⟩)] }
     s.clean ∧ s.hasBar 0#12 ∧ s.portFree s.bus.hport = true ∧ 1 < s.cfg.nPorts ∧ 1 ≠ s.bus.hport ∧
      (s.port 1).pending = .bwrite 3#12 true [0xB6#8] ∧
      wordOf s.cfg (s.addrOf (3#12 : Id).toNat) = wordOf s.cfg (s.addrOf 0)) ∧
    (let s : State := { barsAt 2 true with
      ports := [(0, ⟨false, .bwrite 0#12 true [0xDB#8]⟩), (1, ⟨false, .bwrite 3#12 true [0xB6#8]⟩)] }
     s.clean ∧ s.hasBar 0#12 ∧ s.bus.hport < s.cfg.nPorts ∧ (s.port s.bus.hport).pending = .bwrite 0#12 true [0xDB#8] ∧
      (s.port 1).pending = .bwrite 3#12 true [0xB6#8] ∧
      wordOf s.cfg (s.addrOf (3#12 : Id).toNat) = wordOf s.cfg (s.addrOf 0)) := by decide

/-- Vector X4: step 8 stores into the word. -/
theorem test_meets_BwriteRaceIsFault_sample :
    let s := samplingBar
    s.clean ∧ s.hasBar 0#12 ∧ s.portFree s.bus.hport = true ∧ 0 < s.cfg.nFlows ∧ (s.flow 0).phase = .live ∧
    (s.flow 0).pc = 8#4 ∧ (s.flow 0).conf.ip = true ∧
    wordMeets s.cfg (wordOf s.cfg (s.addrOf 0)) (s.flow 0).conf.iptr (s.flow 0).conf.ilen := by decide

theorem test_meets_BwriteRaceIsFault_store :
    let s : State := { inWork 8#4 (.store 1 [0x3C#8]) with
      bars := [(0, ⟨true, ⟨0x2000, 1, 1, false⟩⟩)], ports := [(1, ⟨false, .bwrite 0#12 true [0x11#8]⟩)] }
    s.stepReady 8#4 .none ∧ s.actor.conf.ip = true ∧ s.actor.work = .store 1 [0x3C#8] ∧ 1 < s.cfg.nPorts ∧
    (s.port 1).pending = .bwrite 0#12 true [0x11#8] ∧
    wordOf s.cfg (s.addrOf (0#12 : Id).toNat) = wordOf s.cfg (s.actor.conf.iptr + 1) := by decide

/-- Context 1 has written the word, as a BWRITE and directly, and only context 2 has seen it; contexts 1 and 0 synchronise. -/
theorem test_meets_BwriteRaceIsFault_unordered :
    (let s : State := { barsAt 2 true with writes := [⟨0x400, 1, false, [2]⟩] }
     s.clean ∧ s.hasBar 0#12 ∧ s.portFree s.bus.hport = true ∧ (⟨0x400, 1, false, [2]⟩ : Written) ∈ s.writes ∧
      0x400 = wordOf s.cfg (s.addrOf (0#12 : Id).toNat) ∧ 1 ≠ s.bus.hport ∧ s.bus.hport ∉ [2]) ∧
    (let s : State := withScript { barsAt 2 true with writes := [⟨0x400, 1, true, []⟩] } [.sync 1 0]
     s.clean ∧ nextInput s = .sync 1 0) := by decide

theorem test_meets_BitWriteFrameLaw :
    let s := barsAt 2 true
    Inv s ∧ s.portReady ∧ s.cfg.barWriteXor = true ∧ s.hasBar 0#12 ∧
    s.hostRace s.bus.hport (s.addrOf (0#12 : Id).toNat) true = false :=
  ⟨inv_of_check test_wf_cfg (by decide), by decide⟩

/-- The aliasing of vector 2.4: BARs 1 and 3 over one bit with different polarities, and BAR 1 with itself. -/
theorem test_meets_WriteThenReadBack :
    let s := barsAt 2 true
    Inv s ∧ s.portReady ∧ s.cfg.barWriteXor = true ∧ s.hasBar 1#12 ∧ s.hasBar 3#12 ∧
    s.addrOf (3#12 : Id).toNat = s.addrOf (1#12 : Id).toNat ∧ s.bitOf (3#12 : Id).toNat = s.bitOf (1#12 : Id).toNat ∧
    s.hostRace s.bus.hport (s.addrOf (1#12 : Id).toNat) true = false :=
  ⟨inv_of_check test_wf_cfg (by decide), by decide⟩

/-- The last bit of a buffer, under the default map and under one that turns the bits of a byte round. -/
theorem test_meets_BitIndexIsBijection :
    (let r : BarRecord := ⟨0x1000, 3, 23, true⟩
     cfg.wf ∧ cfg.bitmap = [] ∧ r.index < 8 * r.len ∧ r.addr cfg = 0x1002 ∧ r.bit cfg = 7 ∧ 2 < r.len ∧ 7 < 8) ∧
    (let c : Config := { cfg with bitmap := [(1, [7, 6, 5, 4, 3, 2, 1, 0])] }
     let r : BarRecord := ⟨0x1000, 1, 7, true⟩
     c.wf ∧ r.index < 8 * r.len ∧ r.addr c = 0x1000 ∧ r.bit c = 0) := by decide

/-- Vectors FN1 and FN13: alone, and sharing a transport under one primitive. -/
theorem test_meets_FnewConstructsFlow :
    (let s := withConf confB
     s.portReady ∧ (3#12 : Id).toNat < s.cfg.nFlows ∧ (s.flow 3).phase = .void ∧ ConfOk s.cfg s.bus.conf ∧
      (List.range s.cfg.nFlows).all (fun g => decide ((s.flow g).phase ≠ .void → s.bus.conf.mayShare (s.flow g).conf)) = true) ∧
    (let s : State := { stateAt confA 1#4 .none with
      bus := { Bus.reset with conf := { confC with xp := true, xid := 0 } } }
     s.portReady ∧ (1#12 : Id).toNat < s.cfg.nFlows ∧ (s.flow 1).phase = .void ∧ ConfOk s.cfg s.bus.conf ∧
      (List.range s.cfg.nFlows).all (fun g => decide ((s.flow g).phase ≠ .void → s.bus.conf.mayShare (s.flow g).conf)) = true) := by
  decide

/-- Which branch of the statement `FnewRefusals` a record and a flow number come to; 0 is none of them. -/
def fnewBranch (s : State) (f : Id) : Nat :=
  let r := s.bus.conf
  if ¬ f.toNat < s.cfg.nFlows ∨ (s.flow f.toNat).phase ≠ .void ∨ ¬ r.tport < s.cfg.nTransports ∨
      ¬ r.latch < s.cfg.nLatches ∨ (r.xp = true ∧ ¬ r.xid < s.cfg.nExcl) then 1
  else if r.period ≤ 0 then 2
  else if (r.op = true ∧ r.olen = 0) ∨ (r.ip = true ∧ r.ilen = 0) then 3
  else if (r.op = true ∧ r.optr + r.olen > 2 ^ s.cfg.addrBits) ∨
      (r.ip = true ∧ r.iptr + r.ilen > 2 ^ s.cfg.addrBits) then 4
  else if (List.range s.cfg.nFlows).any fun g => decide ((s.flow g).phase ≠ .void ∧
      ((r.tport = (s.flow g).conf.tport ∧ ¬ (r.xp = true ∧ (s.flow g).conf.xp = true ∧ r.xid = (s.flow g).conf.xid)) ∨
        r.latch = (s.flow g).conf.latch)) then 5
  else 0

/-- One record for each branch, at the edge: flow 4 of 4, transport 2 of 2, line 4 of 4, primitive 2 of 2, period 0 and -1,
length 0, an end one past the top, a shared transport (FN10), a shared line (FN11). -/
theorem test_meets_FnewRefusals :
    (withConf confB).portReady ∧ fnewBranch (withConf confB) 4#12 = 1 ∧
    fnewBranch (withConf { confB with tport := 2 }) 0#12 = 1 ∧ fnewBranch (withConf { confB with latch := 4 }) 0#12 = 1 ∧
    fnewBranch (withConf { confA with xid := 2 }) 0#12 = 1 ∧ fnewBranch (withConf { confB with period := 0 }) 0#12 = 2 ∧
    fnewBranch (withConf { confB with period := -1 }) 0#12 = 2 ∧ fnewBranch (withConf { confB with olen := 0 }) 0#12 = 3 ∧
    fnewBranch (withConf { confC with iptr := 0xFFFE, ilen := 3 }) 0#12 = 4 ∧
    fnewBranch { stateAt confB 1#4 .none with bus := { Bus.reset with conf := confC } } 1#12 = 5 ∧
    fnewBranch { stateAt confB 1#4 .none with bus := { Bus.reset with conf := { confD with latch := 0 } } } 1#12 = 5 ∧
    fnewBranch (withConf { confC with iptr := 0xFFFC, ilen := 4 }) 3#12 = 0 := by decide

/-- Vectors FN2 and FN3. -/
theorem test_meets_MisalignedBufferHalts :
    let ready (s : State) : Bool := decide (s.portReady ∧ (0#12 : Id).toNat < s.cfg.nFlows ∧ (s.flow 0).phase = .void ∧
      s.bus.conf.tport < s.cfg.nTransports ∧ s.bus.conf.latch < s.cfg.nLatches ∧
      (s.bus.conf.xp = true → s.bus.conf.xid < s.cfg.nExcl) ∧ 0 < s.bus.conf.period ∧
      (s.bus.conf.op = true → 1 ≤ s.bus.conf.olen ∧ s.bus.conf.optr + s.bus.conf.olen ≤ 2 ^ s.cfg.addrBits) ∧
      (s.bus.conf.ip = true → 1 ≤ s.bus.conf.ilen ∧ s.bus.conf.iptr + s.bus.conf.ilen ≤ 2 ^ s.cfg.addrBits) ∧
      ((s.bus.conf.op = true ∧ s.bus.conf.optr % s.cfg.wordBytes ≠ 0) ∨
        (s.bus.conf.ip = true ∧ s.bus.conf.iptr % s.cfg.wordBytes ≠ 0))) &&
      (List.range s.cfg.nFlows).all fun g => decide ((s.flow g).phase ≠ .void → s.bus.conf.mayShare (s.flow g).conf)
    ready (withConf { confB with optr := 0x1002 }) = true ∧ ready (withConf { confC with iptr := 0x2001 }) = true := by decide

theorem test_meets_FinitIssuesOpen :
    (constructed.portReady ∧ (0#12 : Id).toNat < constructed.cfg.nFlows ∧ (constructed.flow 0).phase = .constructed ∧
      (constructed.flow 0).inflight = .none) ∧
    ¬ (4#12 : Id).toNat < constructed.cfg.nFlows ∧ (constructed.flow 1).phase ≠ .constructed ∧
    ((openAt true).portReady ∧ ((openAt true).flow 0).inflight ≠ .none) := by decide

theorem test_meets_OpenMakesFlowLive : (openAt true).clean ∧ (openAt true).actor.inflight = .topen ∧
    (openAt true).actor.phase = .constructed ∧ (openAt true).bus.ok = true := by decide

theorem test_meets_FailedOpenHalts : Inv (openAt false) ∧ (openAt false).clean ∧ (openAt false).actor.inflight = .topen ∧
    (openAt false).bus.ok = false :=
  ⟨inv_of_check test_wf_cfg (by decide), by decide⟩

theorem test_meets_FtrigSetsTrigger :
    ((stateAt confB 6#4 .none).portReady ∧ (0#12 : Id).toNat < cfg.nFlows ∧ ((stateAt confB 6#4 .none).flow 0).phase = .live) ∧
    (constructed.portReady ∧ (constructed.flow 0).phase ≠ .live ∧ ¬ (4#12 : Id).toNat < constructed.cfg.nFlows) := by decide

theorem test_meets_S1WaitsForPeriodOrTrigger :
    (let s := stateAt confA 1#4 .none
     s.stepReady 1#4 .none ∧ (s.actor.timer = 0 ∨ s.actor.trig = true)) ∧
    (let s := stateOf { flowAt confA 1#4 .none with trig := true, timer := 7 }
     s.stepReady 1#4 .none ∧ (s.actor.timer = 0 ∨ s.actor.trig = true)) ∧
    (let s := stateOf { flowAt confA 1#4 .none with timer := 1 }
     s.stepReady 1#4 .none ∧ s.actor.timer ≠ 0 ∧ s.actor.trig = false) := by decide

theorem test_meets_S2AsksForPrimitive :
    ((stateAt confB 2#4 .none).stepReady 2#4 .none ∧ (stateAt confB 2#4 .none).actor.conf.xp = false) ∧
    ((stateAt confA 2#4 .none).stepReady 2#4 .none ∧ (stateAt confA 2#4 .none).actor.conf.xp = true) := by decide

theorem test_meets_XacqGrantsFreePrimitive :
    (let s := stateAt confA 2#4 (.xacq 0)
     s.clean ∧ s.actor.inflight = .xacq 0 ∧ s.actor.pc = 2#4 ∧ s.owner 0 = none ∧ s.ctxFree s.bus.flow = true) ∧
    (let s : State := { stateAt confA 2#4 (.xacq 0) with owners := [(0, some 1)] }
     s.clean ∧ s.actor.inflight = .xacq 0 ∧ s.actor.pc = 2#4 ∧ s.owner 0 ≠ none) ∧
    (let s : State := { base with flows := [(0, flowAt confA 2#4 (.xacq 0)), (1, flowAt { confD with ctx := 0 } 12#4 .none)] }
     s.clean ∧ s.actor.inflight = .xacq 0 ∧ s.actor.pc = 2#4 ∧ s.owner 0 = none ∧ s.ctxFree s.bus.flow = false) := by decide

theorem test_meets_S3DrivesLatchLow : (stateAt confD 3#4 .none).stepReady 3#4 .none := by decide

theorem test_meets_S4SerializesOutput :
    (let s := inWork 4#4 (.gather [0xDB#8, 0x76#8])
     s.stepReady 4#4 .none ∧ s.actor.conf.op = true ∧ s.actor.gathered.length < s.actor.conf.olen ∧
      s.actor.conf.optr + s.actor.conf.olen ≤ 2 ^ s.cfg.addrBits) ∧
    (let s := inWork 4#4 (.gather [0xDB#8, 0x76#8, 0xB6#8])
     s.stepReady 4#4 .none ∧ s.actor.conf.op = true ∧ s.actor.gathered.length = s.actor.conf.olen) ∧
    ((stateAt confC 4#4 .none).stepReady 4#4 .none ∧ (stateAt confC 4#4 .none).actor.conf.op = false) := by decide

theorem test_meets_S5SendsFillerForInputOnly :
    (let s := stateAt confC 5#4 .none
     s.stepReady 5#4 .none ∧ s.actor.conf.op = false ∧ s.actor.conf.ip = true) ∧
    (let s := stateAt confA 5#4 .none
     s.stepReady 5#4 .none ∧ (s.actor.conf.op = true ∨ s.actor.conf.ip = false)) ∧
    (let s := stateAt confD 5#4 .none
     s.stepReady 5#4 .none ∧ (s.actor.conf.op = true ∨ s.actor.conf.ip = false)) := by decide

theorem test_meets_FullWriteGoesOn :
    (let s := answerAt confA 4#4 (.twrite [0xDB#8, 0x76#8, 0xB6#8] 3) 3 []
     s.clean ∧ s.actor.inflight = .twrite [0xDB#8, 0x76#8, 0xB6#8] 3 ∧ s.actor.pc = 4#4 ∧ s.bus.cnt = s.actor.conf.olen) ∧
    (let s := answerAt confC 5#4 (.twrite [0xF5#8] 1) 1 []
     s.clean ∧ s.actor.inflight = .twrite [0xF5#8] 1 ∧ s.actor.pc = 5#4 ∧ s.bus.cnt = 1) := by decide

/-- Vectors F3, O7 and O8 (counts 2, -1, 4), and F4. -/
theorem test_meets_ShortWriteHalts :
    (let s := answerAt confA 4#4 (.twrite [0xDB#8, 0x76#8, 0xB6#8] 3) 2 []
     Inv s ∧ s.clean ∧ s.actor.inflight = .twrite [0xDB#8, 0x76#8, 0xB6#8] 3 ∧ s.bus.cnt ≠ (3 : Nat) ∧
      (-1 : Int) ≠ (3 : Nat) ∧ (4 : Int) ≠ (3 : Nat)) ∧
    (let s := answerAt confC 5#4 (.twrite [0xF5#8] 1) 0 []
     Inv s ∧ s.clean ∧ s.actor.inflight = .twrite [0xF5#8] 1 ∧ s.bus.cnt ≠ (1 : Nat)) :=
  ⟨⟨inv_of_check test_wf_cfg (by decide), by decide⟩, inv_of_check test_wf_cfg (by decide), by decide⟩

theorem test_meets_SettlingDelaysHold :
    (stateAt confA 6#4 .none).stepReady 6#4 .none ∧
    (let s := stateOf { flowAt confA 6#4 (.delay .pre) with hold := 1 }
     s.stepReady 6#4 (.delay .pre) ∧ s.actor.hold ≠ 0) ∧
    ((stateAt confA 6#4 (.delay .pre)).stepReady 6#4 (.delay .pre) ∧ (stateAt confA 6#4 (.delay .pre)).actor.hold = 0) ∧
    (stateAt confA 9#4 .none).stepReady 9#4 .none ∧
    (let s := stateOf { flowAt confA 9#4 (.delay .post) with hold := 1 }
     s.stepReady 9#4 (.delay .post) ∧ s.actor.hold ≠ 0) ∧
    ((stateAt confA 9#4 (.delay .post)).stepReady 9#4 (.delay .post) ∧ (stateAt confA 9#4 (.delay .post)).actor.hold = 0) := by
  decide

theorem test_meets_S7DrivesLatchHigh : (stateAt confD 7#4 .none).stepReady 7#4 .none := by decide

theorem test_meets_S8DeserializesInput :
    ((stateAt confB 8#4 .none).stepReady 8#4 .none ∧ (stateAt confB 8#4 .none).actor.conf.ip = false) ∧
    ((stateAt confA 8#4 .none).stepReady 8#4 .none ∧ (stateAt confA 8#4 .none).actor.conf.ip = true ∧
      (stateAt confA 8#4 .none).actor.work = .idle) ∧
    (let s := inWork 8#4 (.store 1 [0x3C#8])
     s.stepReady 8#4 .none ∧ s.actor.conf.ip = true ∧ s.actor.work = .store 1 [0x3C#8] ∧
      s.anyMidWrite (wordOf s.cfg (s.actor.conf.iptr + 1)) = false ∧ s.actor.conf.iptr + 1 < 2 ^ s.cfg.addrBits) ∧
    (let s := inWork 8#4 (.store 2 [])
     s.stepReady 8#4 .none ∧ s.actor.conf.ip = true ∧ s.actor.work = .store 2 []) := by decide

theorem test_meets_FullReadWaitsToBeStored :
    let s := answerAt confA 8#4 (.tread 2) 2 [0xC3#8, 0x3C#8]
    s.clean ∧ s.actor.inflight = .tread 2 ∧ s.actor.pc = 8#4 ∧ 2 = s.actor.conf.ilen ∧ s.bus.cnt = (2 : Nat) ∧
    s.bus.data.length = 2 := by decide

/-- Vectors F5 (count 1), and the counts beside the right one. -/
theorem test_meets_ShortReadHalts :
    let s := answerAt confA 8#4 (.tread 2) 1 [0x99#8]
    Inv s ∧ s.clean ∧ s.actor.inflight = .tread 2 ∧ s.bus.cnt ≠ (2 : Nat) ∧ (3 : Int) ≠ (2 : Nat) ∧ (-1 : Int) ≠ (2 : Nat) :=
  ⟨inv_of_check test_wf_cfg (by decide), by decide⟩

theorem test_meets_S10ReturnsLatchLow : (stateAt confD 10#4 .none).stepReady 10#4 .none := by decide

theorem test_meets_S11ReleasesIfHeld :
    ((stateAt confA 11#4 .none).stepReady 11#4 .none ∧ (stateAt confA 11#4 .none).actor.held = true) ∧
    ((stateAt confB 11#4 .none).stepReady 11#4 .none ∧ (stateAt confB 11#4 .none).actor.held = false) := by decide

theorem test_meets_S12ResumesFromStepOne : (stateAt confA 12#4 .none).stepReady 12#4 .none := by decide

theorem test_meets_InstantPortOperations :
    ((stateAt confA 1#4 .lclr).clean ∧ (stateAt confA 1#4 .lclr).actor.inflight = .lclr) ∧
    ((stateAt confA 1#4 .lset).clean ∧ (stateAt confA 1#4 .lset).actor.inflight = .lset) ∧
    (let s : State := { stateAt confA 1#4 .xrel with owners := [(0, some 0)] }
     s.clean ∧ s.actor.inflight = .xrel ∧ s.owner s.actor.conf.xid = some s.bus.flow) := by decide

theorem test_meets_TimeBaseCountsDown :
    let s := withScript (stateOf { flowAt confA 1#4 .none with timer := 1 }) [.tick 0]
    s.clean ∧ nextInput s = .tick 0 ∧ 0 < s.cfg.nFlows := by decide

theorem test_meets_OwnerWritesOneByte :
    (let s := withScript base [.ownerWrite 0 0xFFFF 1#8]
     s.clean ∧ nextInput s = .ownerWrite 0 0xFFFF 1#8 ∧ s.portFree 0 = true ∧ s.hostRace 0 0xFFFF false = false ∧
      0xFFFF < 2 ^ s.cfg.addrBits) ∧
    (let s := withScript base [.ownerWrite 0 0x10000 1#8]
     s.clean ∧ nextInput s = .ownerWrite 0 0x10000 1#8 ∧ s.portFree 0 = true ∧ s.hostRace 0 0x10000 false = false ∧
      ¬ 0x10000 < 2 ^ s.cfg.addrBits) ∧
    (let s := withScript (midWrite 2 true true [0xDB#8]) [.ownerWrite 1 0x1003 1#8]
     s.clean ∧ nextInput s = .ownerWrite 1 0x1003 1#8 ∧ s.portFree 1 = true ∧ s.hostRace 1 0x1003 false = true) := by decide

/-- The last byte of a buffer of a BAR and of a flow, the byte after it, and no byte inside a buffer. -/
theorem test_meets_BufferInUseMustStay :
    (let s := withScript (barsAt 2 true) [.bufferGone 0x1002 1]
     s.clean ∧ nextInput s = .bufferGone 0x1002 1 ∧ 0 < s.cfg.nBars ∧ (s.bar 0).valid = true ∧
      (s.bar 0).desc.base ≤ 0x1002 ∧ 0x1002 < (s.bar 0).desc.base + (s.bar 0).desc.len) ∧
    (let s := withScript (stateAt confA 1#4 .none) [.bufferGone 0x2001 1]
     s.clean ∧ nextInput s = .bufferGone 0x2001 1 ∧ 0 < s.cfg.nFlows ∧ (s.flow 0).phase ≠ .void ∧
      (s.flow 0).conf.ip = true ∧ (s.flow 0).conf.iptr ≤ 0x2001 ∧ 0x2001 < (s.flow 0).conf.iptr + (s.flow 0).conf.ilen) ∧
    (let s := withScript (barsAt 2 true) [.bufferGone 0x1003 1]
     s.clean ∧ nextInput s = .bufferGone 0x1003 1 ∧ s.referenced 0x1003 1 = false) ∧
    (let s := withScript (barsAt 2 true) [.bufferGone 0x1001 0]
     s.clean ∧ nextInput s = .bufferGone 0x1001 0 ∧ s.referenced 0x1001 0 = false) := by decide

theorem test_meets_BlockedSequencerDoesNothing :
    (let s := withScript (stateAt confA 8#4 (.tread 2)) [.sequencer 0]
     s.fatal = false ∧ nextInput s = .sequencer 0 ∧ 0 < s.cfg.nFlows ∧ (s.flow 0).phase = .live ∧ (s.flow 0).pc.toNat = 8 ∧
      (s.flow 0).inflight = .tread 2) ∧
    (let s := withScript { base with flows := [(0, flowAt confA 1#4 .none), (1, flowAt { confD with ctx := 0 } 12#4 .none)] }
      [.sequencer 0]
     s.fatal = false ∧ nextInput s = .sequencer 0 ∧ 0 < s.cfg.nFlows ∧ (s.flow 0).phase = .live ∧ (s.flow 0).pc.toNat = 1 ∧
      1 < s.cfg.nFlows ∧ (s.flow 1).conf.ctx = (s.flow 0).conf.ctx ∧ (s.flow 1).running) := by decide

/-- A step out of a state of the invariant, also for the statements about any step. -/
def steppingState : State := withScript (stateAt confA 3#4 .none) [.sequencer 0]

theorem test_meets_StepKeepsInvariant : ∃ t, Inv steppingState ∧ Memory.wf steppingState.mem ∧ step steppingState = .next t ∧
    nextInput steppingState ≠ .restart := by
  obtain ⟨t, h, -⟩ := next_of_after (p := fun _ => true) (r := step steppingState) (by decide)
  exact ⟨t, inv_of_check test_wf_cfg (by decide), by decide, h, by decide⟩

theorem test_meets_OneFlowPerPrimitive :
    Inv twoFlows ∧ (twoFlows.flow 0).inBusSteps ∧ (twoFlows.flow 1).inBusSteps ∧ (twoFlows.flow 0).conf.xp = true :=
  ⟨inv_of_check test_wf_cfg (by decide), by decide⟩

/-- The event a flow with a primitive appends to the trace in step 3. -/
theorem test_meets_BusOnlyUnderExclusion : ∃ t, Inv steppingState ∧ step steppingState = .next t ∧
    nextInput steppingState ≠ .restart ∧ t.trace = [.lclr 0 0] ∧ (Event.lclr 0 0).busFlow = some 0 ∧
    (steppingState.flow 0).conf.xp = true := by
  obtain ⟨t, h, ht⟩ := next_of_after (p := fun t => t.trace == [.lclr 0 0]) (r := step steppingState) (by decide)
  exact ⟨t, inv_of_check test_wf_cfg (by decide), h, by decide, eq_of_beq ht, rfl, rfl⟩

theorem test_meets_LatchHighExactlyFromS7ToS10 :
    (Inv (stateAt confA 8#4 .none) ∧ ((stateAt confA 8#4 .none).flow 0).phase = .live) ∧
    (Inv (stateAt confA 11#4 .none) ∧ ((stateAt confA 11#4 .none).flow 0).phase = .live) :=
  ⟨⟨inv_of_check test_wf_cfg (by decide), by decide⟩, inv_of_check test_wf_cfg (by decide), by decide⟩

theorem test_meets_StepKeepsCanonicalMemory : ∃ t, Memory.wf steppingState.mem ∧ step steppingState = .next t :=
  let ⟨t, _, hm, hs, _⟩ := test_meets_StepKeepsInvariant
  ⟨t, hm, hs⟩

theorem test_meets_StepRegisterMoves : ∃ t, step steppingState = .next t ∧ nextInput steppingState ≠ .restart :=
  let ⟨t, _, _, hs, hn⟩ := test_meets_StepKeepsInvariant
  ⟨t, hs, hn⟩

theorem test_meets_TraceOnlyGrows : ∃ t, step steppingState = .next t ∧ nextInput steppingState ≠ .restart :=
  test_meets_StepRegisterMoves

/-- A valid BAR, a constructed flow that becomes live, and a step that is no restart. -/
theorem test_meets_WiringIsPermanent : ∃ t, step (withScript { openAt true with bars := [(0, ⟨true, ⟨0x1000, 3, 23, true⟩⟩)] }
    [.answer 0 true 0 []]) = .next t ∧ nextInput (withScript (openAt true) [.answer 0 true 0 []]) ≠ .restart ∧
    (t.flow 0).phase = .live ∧ (t.bar 0).valid = true := by
  obtain ⟨t, h, ht⟩ := next_of_after (p := fun t => (t.flow 0).phase == .live && (t.bar 0).valid)
    (r := step (withScript { openAt true with bars := [(0, ⟨true, ⟨0x1000, 3, 23, true⟩⟩)] } [.answer 0 true 0 []])) (by decide)
  simp only [Bool.and_eq_true, beq_iff_eq] at ht
  exact ⟨t, h, by decide, ht⟩

/-- A byte changes by each of the three writers; none of the inputs is a restart. -/
theorem test_meets_MemoryHasThreeWriters :
    (∃ t, Inv (withScript { base with mem := [(0xFFFF, 0#8)] } [.ownerWrite 0 0xFFFF 1#8]) ∧ step (withScript { base with mem := [(0xFFFF, 0#8)] }
      [.ownerWrite 0 0xFFFF 1#8]) = .next t ∧ t.byteAt 0xFFFF = 1#8) ∧
    (∃ t, Inv (withScript (midWrite 2 false true [0xDB#8]) [.resume 0]) ∧
      step (withScript (midWrite 2 false true [0xDB#8]) [.resume 0]) = .next t ∧ t.byteAt 0x1000 = 0xDF#8) ∧
    (∃ t, Inv (withScript (inWork 8#4 (.store 1 [0x3C#8])) [.sequencer 0]) ∧
      step (withScript (inWork 8#4 (.store 1 [0x3C#8])) [.sequencer 0]) = .next t ∧ t.byteAt 0x2001 = 0x3C#8) := by
  refine ⟨?_, ?_, ?_⟩
  · obtain ⟨t, h, ht⟩ := next_of_after (p := fun t => t.byteAt 0xFFFF == 1#8)
      (r := step (withScript { base with mem := [(0xFFFF, 0#8)] } [.ownerWrite 0 0xFFFF 1#8])) (by decide)
    exact ⟨t, inv_of_check test_wf_cfg (by decide), h, eq_of_beq ht⟩
  · obtain ⟨t, h, ht⟩ := next_of_after (p := fun t => t.byteAt 0x1000 == 0xDF#8)
      (r := step (withScript (midWrite 2 false true [0xDB#8]) [.resume 0])) (by decide)
    exact ⟨t, inv_of_check test_wf_cfg (by decide), h, eq_of_beq ht⟩
  · obtain ⟨t, h, ht⟩ := next_of_after (p := fun t => t.byteAt 0x2001 == 0x3C#8)
      (r := step (withScript (inWork 8#4 (.store 1 [0x3C#8])) [.sequencer 0])) (by decide)
    exact ⟨t, inv_of_check test_wf_cfg (by decide), h, eq_of_beq ht⟩

/-- A direct write of the host to the first address that does not exist. -/
theorem test_meets_BlockStaysInsideMemory : Inv (withScript base [.ownerWrite 0 0x10000 1#8]) ∧
    faultOf (step (withScript base [.ownerWrite 0 0x10000 1#8])) = some (.noSuchAddress 0x10000) :=
  ⟨inv_of_check test_wf_cfg (by decide), by decide⟩

theorem test_meets_UnitsTouchOnlyTheirOwn :
    after (exec .s3LatchLow (stateAt confA 3#4 .none)) (fun _ => true) = true ∧ Instr.s3LatchLow.ofFlow = true ∧
    after (exec (.bread 0#12) (barsAt 2 true)) (fun _ => true) = true := by decide

/-- Every premise of one whole cycle, for a configuration with its buffers and for one without. -/
theorem test_meets_WholeCycle :
    let meets (c : FlowRecord) (data : List Byte) (s : State) : Prop :=
      s.clean ∧ (s.flow 0).phase = .live ∧ (s.flow 0).pc = 1#4 ∧ ((s.flow 0).timer = 0 ∨ (s.flow 0).trig = true) ∧
      s.ctxFree 0 = true ∧ ((s.flow 0).conf.xp = true → s.owner (s.flow 0).conf.xid = none) ∧
      data.length = (s.flow 0).conf.ilen ∧ (s.flow 0).conf = c ∧
      s.script = cycleInputs s.cfg 0 c data ++ [.tick 0]
    (∀ h b v old, ((cycleStart confA true [0xC3#8, 0x3C#8]).port h).pending ≠ .bwrite b v old ∧
      ((cycleStart confD false []).port h).pending ≠ .bwrite b v old) ∧
    (Inv (cycleStart confA true [0xC3#8, 0x3C#8]) ∧ meets confA [0xC3#8, 0x3C#8] (cycleStart confA true [0xC3#8, 0x3C#8])) ∧
    (Inv (cycleStart confD false []) ∧ meets confD [] (cycleStart confD false [])) :=
  ⟨fun _ _ _ _ => ⟨(fun h => nomatch h), (fun h => nomatch h)⟩, ⟨inv_of_check test_wf_cfg (by decide), by decide⟩,
    inv_of_check test_wf_cfg (by decide), by decide⟩

/-! The runs without end of the last statement: one flow that goes round for ever. -/

/-- One flow, and settling delays of one unit. -/
def oneFlow : Config := { cfg with nFlows := 1, tSettlePre := 1, tSettlePost := 1 }

/-- The registers of a flow without buffers at moment `k` of its round of 17 transitions. -/
def roundFlow (k : Nat) : Flow :=
  let at' (pc : StepCode) (p : PortOp) (timer : Int) (hold : Nat) : Flow :=
    { flowAt { confD with period := 1 } pc p with timer := timer, hold := hold }
  [at' 1#4 .none 1 0, at' 1#4 .none 0 0, at' 2#4 .none 0 0, at' 3#4 .none 0 0, at' 4#4 .none 0 0, at' 5#4 .none 0 0,
    at' 6#4 .none 0 0, at' 6#4 (.delay .pre) 0 1, at' 6#4 (.delay .pre) 0 0, at' 7#4 .none 0 0, at' 8#4 .none 0 0,
    at' 9#4 .none 0 0, at' 9#4 (.delay .post) 0 1, at' 9#4 (.delay .post) 0 0, at' 10#4 .none 0 0, at' 11#4 .none 0 0,
    at' 12#4 .none 0 0].getD k Flow.reset

/-- The state at moment `k` of the round, after the events of `tr`. -/
def roundState (k : Nat) (tr : List Event) : State :=
  { State.reset with
    cfg := oneFlow, flows := [(0, roundFlow k)], latches := [(2, levelAt (roundFlow k).pc)], trace := tr }

/-- The input at moment `k` of the round. -/
def roundInput (k : Nat) : Input := if k = 0 ∨ k = 7 ∨ k = 12 then .tick 0 else .sequencer 0

/-- The events of moment `k` of the round. -/
def roundEvents (k : Nat) : List Event :=
  match k with
  | 1 => [.wait 0 .period]
  | 3 => [.lclr 0 2]
  | 8 => [.delay 0 .pre]
  | 9 => [.lset 0 2]
  | 13 => [.delay 0 .post]
  | 14 => [.lclr 0 2]
  | _ => []

/-- The events before moment `n`. -/
def roundTrace : Nat → List Event
  | 0 => []
  | n + 1 => roundTrace n ++ roundEvents (n % 17)

/-- The flow goes round for ever. -/
def roundRun (n : Nat) : State := roundState (n % 17) (roundTrace n)

/-- One transition leads from each moment of the round to the next. -/
theorem round_step (tr : List Event) : ∀ k < 17,
    step ((roundState k tr).offered (roundInput k)) = .next (roundState ((k + 1) % 17) (tr ++ roundEvents k)) := by
  intro k hk
  interval_cases k
  all_goals first | rfl | (rw [show roundEvents _ = [] from rfl, List.append_nil]; rfl)

/-- Every state of the round meets the invariant. -/
theorem round_inv (tr : List Event) : ∀ k < 17, Inv (roundState k tr) := by
  intro k hk
  refine inv_of_check (s := roundState k tr) (show oneFlow.wf by decide) ?_
  interval_cases k <;> rfl

/-- From any moment on there is one at each place of the round. -/
theorem round_later {p : Nat → Prop} (n j : Nat) (hj : j < 17) (h : ∀ m, m % 17 = j → p m) : Later n p :=
  ⟨n - n % 17 + 17 + j, by omega, h _ (by omega)⟩

/-- There is one flow. -/
theorem round_flow (m : Nat) (f : Nat) : (roundRun m).flow f = if f = 0 then roundFlow (m % 17) else Flow.reset := by
  simp only [roundRun, roundState, State.flow, tableFind]
  split <;> rfl

/-- The run meets every premise: the four assumptions, the turns, the contexts, and a live flow. -/
theorem test_meets_FairFlowsKeepCycling : Run (fun n => roundInput (n % 17)) roundRun ∧ FairPeriods roundRun ∧
    FairHolds roundRun ∧ FairAnswers roundRun ∧ FairGrants roundRun ∧ TurnsForAll (fun n => roundInput (n % 17)) roundRun ∧
    OwnContexts roundRun ∧ ((roundRun 0).flow 0).phase = .live := by
  have idle : ∀ f m, m % 17 = 0 → ((roundRun m).flow f).inflight = .none := fun f m hm => by
    rw [round_flow, hm]; split <;> rfl
  refine ⟨⟨fun n => ?_, fun n => ?_, fun n => round_inv _ _ (Nat.mod_lt _ (by decide))⟩, fun f n _ _ => ?_,
    fun f k n _ => ?_, fun f n _ => round_later n 0 (by decide) (idle f),
    fun f x n _ _ => round_later n 0 (by decide) (idle f), fun f n hf => ?_, fun n f g hne hf hg => ?_, rfl⟩
  · rw [roundRun, round_step _ _ (Nat.mod_lt _ (by decide)), roundRun, roundTrace, Nat.mod_add_mod]
  · simp only [roundInput]; split <;> exact fun h => nomatch h
  · refine round_later n 1 (by decide) fun m hm => ?_
    rw [round_flow, hm]
    split
    · exact .inl (.inl rfl)
    · exact .inr (by decide)
  · refine round_later n 0 (by decide) fun m hm => .inr ?_
    rw [idle f m hm]; exact fun h => nomatch h
  · obtain rfl : f = 0 := by have : f < 1 := hf; omega
    exact round_later n 1 (by decide) fun m hm => by simp only [hm]; rfl
  · have live : ∀ f, ((roundRun n).flow f).phase = .live → f = 0 := fun f h => by
      by_contra h0; rw [round_flow, if_neg h0] at h; cases h
    rw [live f hf, live g hg] at hne; exact absurd rfl hne

end Sys2Proof.Tests
end

section
/-! SUPPORT. The invariant of the flows, their lines and their primitives, and when a transition of one flow keeps it
(rules R25 to R35, R142, R173, R177). -/

namespace Sys2Proof.Machine

variable {s t : State} {c : Config} {f : Nat} {fl : Flow}

/-- The part of the invariant about the flows, their lines and their primitives (rules R25 to R35, R142, R173, R177). -/
structure FlowsInv (s : State) : Prop where
  confs : ∀ f, (s.flow f).phase ≠ .void → f < s.cfg.nFlows ∧ ConfOk s.cfg (s.flow f).conf
  sharing : ∀ f g, f ≠ g → (s.flow f).phase ≠ .void → (s.flow g).phase ≠ .void →
    (s.flow f).conf.mayShare (s.flow g).conf
  flows : ∀ f, FlowOk s.cfg (s.flow f)
  owners : ∀ x f, s.owner x = some f ↔ (s.flow f).held = true ∧ (s.flow f).conf.xid = x
  latches : ∀ f, (s.flow f).phase = .live → LatchOk (s.flow f) (s.latch (s.flow f).conf.latch)
  driven : ∀ l, s.latch l ≠ .x → ∃ f, (s.flow f).phase = .live ∧ (s.flow f).conf.latch = l
  contexts : ∀ f g, f ≠ g → (s.flow f).running → (s.flow g).running → (s.flow f).conf.ctx ≠ (s.flow g).conf.ctx

/-- The invariant of the state has that of the flows as a part. -/
theorem Inv.flowsInv (h : Inv s) : FlowsInv s :=
  ⟨h.confs, h.sharing, h.flows, h.owners, h.latches, h.driven, h.contexts⟩

/-- What no flow's registers, line or primitive has changed by keeps the invariant of the flows. -/
theorem FlowsInv.congr (h : FlowsInv s) (hc : t.cfg = s.cfg) (hf : t.flow = s.flow) (ho : t.owner = s.owner)
    (hl : t.latch = s.latch) : FlowsInv t := by
  constructor <;> simp only [hc, hf, ho, hl]
  exacts [h.confs, h.sharing, h.flows, h.owners, h.latches, h.driven, h.contexts]

/-- A transition of flow `f`: of the flows only `f` changes, and with it at most its line and its primitive, in
agreement with its registers after the transition. -/
structure FlowMove (s t : State) (f : Nat) : Prop where
  cfg : t.cfg = s.cfg
  others : ∀ g, g ≠ f → t.flow g = s.flow g
  present : (s.flow f).phase ≠ .void
  conf : (t.flow f).conf = (s.flow f).conf
  phase : (t.flow f).phase = (s.flow f).phase ∨ (t.flow f).phase = .live
  ok : FlowOk s.cfg (t.flow f)
  owner : ∀ x, t.owner x = some f ↔ (t.flow f).held = true ∧ (s.flow f).conf.xid = x
  otherOwners : ∀ x g, g ≠ f → (t.owner x = some g ↔ s.owner x = some g)
  line : (t.flow f).phase = .live → LatchOk (t.flow f) (t.latch (s.flow f).conf.latch)
  otherLines : ∀ l, ¬ (l = (s.flow f).conf.latch ∧ (t.flow f).phase = .live) → t.latch l = s.latch l
  context : (t.flow f).running → (s.flow f).running ∨ s.ctxFree f = true

/-- In a free context no other flow runs (rule R177). -/
theorem FlowsInv.ctx_ne_of_ctxFree (hs : FlowsInv s) (hf : s.ctxFree f = true) {g : Nat} (hg : g ≠ f)
    (hr : (s.flow g).running) : (s.flow g).conf.ctx ≠ (s.flow f).conf.ctx := by
  have hn : g < s.cfg.nFlows := (hs.confs g (by rw [hr.1]; decide)).1
  exact ((ctxFree_iff.1 hf g hn).resolve_left hg).resolve_right (not_not_intro hr)

/-- A transition of one flow keeps the invariant of the flows. -/
theorem FlowMove.flowsInv (hs : FlowsInv s) (h : FlowMove s t f) : FlowsInv t := by
  have conf : ∀ g, (t.flow g).conf = (s.flow g).conf := fun g => by
    by_cases e : g = f
    · rw [e, h.conf]
    · rw [h.others g e]
  have present : ∀ g, (t.flow g).phase ≠ .void → (s.flow g).phase ≠ .void := fun g hg => by
    by_cases e : g = f
    · rw [e]; exact h.present
    · rwa [← h.others g e]
  have live : ∀ g, (s.flow g).phase = .live → (t.flow g).phase = .live := fun g hg => by
    by_cases e : g = f
    · subst e; exact h.phase.elim (fun e => e.trans hg) id
    · rwa [h.others g e]
  have ctx : (t.flow f).running → ∀ g, g ≠ f → (s.flow g).running → (s.flow g).conf.ctx ≠ (s.flow f).conf.ctx :=
    fun hr g hg hrg => (h.context hr).elim (hs.contexts g f hg hrg) fun hf => hs.ctx_ne_of_ctxFree hf hg hrg
  exact
    { confs := fun g hg => by rw [conf, h.cfg]; exact hs.confs g (present g hg)
      sharing := fun g k hne hg hk => by rw [conf, conf]; exact hs.sharing g k hne (present g hg) (present k hk)
      flows := fun g => by
        rw [h.cfg]
        by_cases e : g = f
        · rw [e]; exact h.ok
        · rw [h.others g e]; exact hs.flows g
      owners := fun x g => by
        rw [conf]
        by_cases e : g = f
        · rw [e]; exact h.owner x
        · rw [h.otherOwners x g e, h.others g e]; exact hs.owners x g
      latches := fun g hg => by
        rw [conf]
        by_cases e : g = f
        · rw [e] at hg ⊢; exact h.line hg
        · rw [h.others g e] at hg ⊢
          have hl : (s.flow g).conf.latch ≠ (s.flow f).conf.latch :=
            (hs.sharing g f e (by rw [hg]; decide) h.present).2
          rw [h.otherLines _ fun hn => hl hn.1]
          exact hs.latches g hg
      driven := fun l hl => by
        by_cases e : l = (s.flow f).conf.latch ∧ (t.flow f).phase = .live
        · exact ⟨f, e.2, by rw [conf, e.1]⟩
        · rw [h.otherLines l e] at hl
          obtain ⟨g, hg, hgl⟩ := hs.driven l hl
          exact ⟨g, live g hg, by rw [conf, hgl]⟩
      contexts := fun g k hne hg hk => by
        rw [conf, conf]
        by_cases eg : g = f
        · subst eg
          rw [h.others k hne.symm] at hk
          exact (ctx hg k hne.symm hk).symm
        · rw [h.others g eg] at hg
          by_cases ek : k = f
          · subst ek; exact ctx hk g eg hg
          · rw [h.others k ek] at hk; exact hs.contexts g k hne hg hk }

/-! What a step does to the registers of its flow. -/

/-- The registers of a flow before and after a transition that leaves its configuration, its phase and `HELD` as they
are, and agrees with rules R26 to R33 afterwards. -/
structure Flow.Next (c : Config) (fl fl' : Flow) : Prop where
  present : fl.phase ≠ .void
  conf : fl'.conf = fl.conf
  phase : fl'.phase = fl.phase
  held : fl'.held = fl.held
  ok : FlowOk c fl'

/-- With nothing in flight the registers of a flow agree as far as rule R33 goes. -/
theorem inflightOk_none (h : fl.inflight = .none) : InflightOk c fl := by
  simp [InflightOk, h]

/-- With no memory event outstanding a flow is at no place inside S4 or S8. -/
theorem workOk_idle (h : fl.work = .idle) : WorkOk fl := by
  simp [WorkOk, h]

/-- S4 has read no byte unless a live flow with an output buffer is in step 4 with nothing in flight. -/
theorem FlowOk.not_gather (h : FlowOk c fl)
    (hn : fl.inflight ≠ .none ∨ fl.phase ≠ .live ∨ fl.pc ≠ 4#4 ∨ fl.conf.op = false) (got : List Byte) :
    fl.work ≠ .gather got := fun e => by
  have hw := h.work
  simp only [WorkOk, e] at hw
  obtain ⟨hl, hp, ho, hi, -⟩ := hw
  simp [hl, hp, ho, hi] at hn

/-- S8 has no byte to store unless a live flow with an input buffer is in step 8 with nothing in flight. -/
theorem FlowOk.not_store (h : FlowOk c fl)
    (hn : fl.inflight ≠ .none ∨ fl.phase ≠ .live ∨ fl.pc ≠ 8#4 ∨ fl.conf.ip = false) (k : Nat) (rest : List Byte) :
    fl.work ≠ .store k rest := fun e => by
  have hw := h.work
  simp only [WorkOk, e] at hw
  obtain ⟨hl, hp, ho, hi, -⟩ := hw
  simp [hl, hp, ho, hi] at hn

theorem work_eq_idle (hg : ∀ got, fl.work ≠ .gather got) (hs : ∀ k rest, fl.work ≠ .store k rest) :
    fl.work = .idle := by
  cases h : fl.work with
  | idle => rfl
  | gather got => exact absurd h (hg got)
  | store k rest => exact absurd h (hs k rest)

/-- While a port operation is in flight, and before the flow is live, no memory event is outstanding. -/
theorem FlowOk.work_idle (h : FlowOk c fl) (hn : fl.inflight ≠ .none ∨ fl.phase ≠ .live) : fl.work = .idle :=
  work_eq_idle (h.not_gather (hn.imp id .inl)) (h.not_store (hn.imp id .inl))

/-- A transition inside a step. -/
theorem Flow.next_stay {tr : Bool} {tm : Int} {p : PortOp} {w : Work} {n : Nat} (h : FlowOk c fl)
    (hv : fl.phase ≠ .void) (ht : fl.phase = .live ∨ tr = fl.trig) (hm : fl.phase = .live → 0 ≤ tm)
    (hi : InflightOk c { fl with inflight := p, work := w, hold := n, trig := tr, timer := tm })
    (hw : WorkOk { fl with inflight := p, work := w, hold := n, trig := tr, timer := tm }) :
    Flow.Next c fl { fl with inflight := p, work := w, hold := n, trig := tr, timer := tm } where
  present := hv
  conf := rfl
  phase := rfl
  held := rfl
  ok :=
    { stopped := fun hl => by
        obtain ⟨hp, hq, hh⟩ := h.stopped hl
        exact ⟨hp, (ht.resolve_left hl).trans hq, hh⟩
      stepping := fun hl => ⟨(h.stepping hl).1, (h.stepping hl).2.1, hm hl⟩
      opened := h.opened
      held := h.held
      inflight := hi
      work := hw }

/-- A transition to step `k`, past the operations of the step before. -/
theorem Flow.next_advance {k : StepCode} {tr : Bool} {tm : Int} {p : PortOp} {w : Work} (h : FlowOk c fl)
    (hl : fl.phase = .live) (hk : 1#4 ≤ k ∧ k ≤ 12#4)
    (hb : fl.conf.xp = true → (3#4 ≤ k ∧ k ≤ 11#4 ↔ 3#4 ≤ fl.pc ∧ fl.pc ≤ 11#4)) (hm : 0 ≤ tm) (hp : p = .none)
    (hw : w = .idle) :
    Flow.Next c fl { fl with pc := k, inflight := p, work := w, trig := tr, timer := tm } where
  present := by rw [hl]; decide
  conf := rfl
  phase := rfl
  held := rfl
  ok :=
    { stopped := fun hn => absurd hl hn
      stepping := fun _ => ⟨hk.1, hk.2, hm⟩
      opened := h.opened
      held := by
        rw [h.held]
        exact and_congr_right fun hx => and_congr_right fun _ => (hb hx).symm
      inflight := inflightOk_none hp
      work := workOk_idle hw }

/-- The levels a line may have while its flow is at a step (rule R173). -/
def lineLevels (k : StepCode) : List Level :=
  if k ≤ 3#4 then [.x, .low] else if 8#4 ≤ k ∧ k ≤ 10#4 then [.high] else [.low]

/-- The level of a line is a matter of the step alone. -/
theorem latchOk_iff {v : Level} : LatchOk fl v ↔ v ∈ lineLevels fl.pc := by
  have h : ∀ v, ∀ k : StepCode, ((4#4 ≤ k → k ≤ 7#4 → v = .low) ∧ (8#4 ≤ k → k ≤ 10#4 → v = .high) ∧
      (11#4 ≤ k → v = .low) ∧ (k ≤ 3#4 → v ≠ .high)) ↔ v ∈ lineLevels k := by
    intro v; cases v <;> decide
  exact h v fl.pc

/-- `t` is `s` with `fl` for flow `f`, as far as the flows, their lines and their primitives go. -/
structure SetsFlow (s t : State) (f : Nat) (fl : Flow) : Prop where
  cfg : t.cfg = s.cfg
  flow : ∀ g, t.flow g = if g = f then fl else s.flow g
  latch : ∀ l, t.latch l = s.latch l
  owner : ∀ x, t.owner x = s.owner x

/-- Every change of one flow starts from none. -/
theorem SetsFlow.refl (s : State) (f : Nat) : SetsFlow s s f (s.flow f) where
  cfg := rfl
  flow g := by split <;> simp_all
  latch _ := rfl
  owner _ := rfl

theorem SetsFlow.emit (h : SetsFlow s t f fl) (e : Event) : SetsFlow s (t.emit e) f fl :=
  ⟨h.cfg, h.flow, h.latch, h.owner⟩

theorem SetsFlow.raiseFatal (h : SetsFlow s t f fl) (e : Cause) (u : Nat) : SetsFlow s (t.raiseFatal e u) f fl :=
  ⟨h.cfg, h.flow, h.latch, h.owner⟩

theorem SetsFlow.withMem (h : SetsFlow s t f fl) (m : List Host.Cell) : SetsFlow s (t.withMem m) f fl :=
  ⟨h.cfg, h.flow, h.latch, h.owner⟩

theorem SetsFlow.setPort (h : SetsFlow s t f fl) (p : Nat) (v : Port) : SetsFlow s (t.setPort p v) f fl :=
  ⟨h.cfg, h.flow, h.latch, h.owner⟩

/-- Of two changes of one flow the second is what remains. -/
theorem SetsFlow.setFlow (h : SetsFlow s t f fl) (fl' : Flow) : SetsFlow s (t.setFlow f fl') f fl' where
  cfg := h.cfg
  flow g := by
    rw [State.setFlow_flow, h.flow]
    split <;> rfl
  latch := h.latch
  owner := h.owner

theorem SetsFlow.goto (h : SetsFlow s t f fl) (k : StepCode) : SetsFlow s (t.goto f k) f { fl with pc := k } := by
  have e : t.flow f = fl := by rw [h.flow, if_pos rfl]
  rw [← e]; exact h.setFlow _

theorem SetsFlow.issue (h : SetsFlow s t f fl) (p : PortOp) : SetsFlow s (t.issue f p) f { fl with inflight := p } := by
  have e : t.flow f = fl := by rw [h.flow, if_pos rfl]
  rw [← e]; exact h.setFlow _

theorem SetsFlow.answered (h : SetsFlow s t f fl) : SetsFlow s (t.answered f) f { fl with inflight := .none } :=
  h.issue .none

/-- A change of one flow's registers keeps the invariant when they agree, the line's level is one of its step's, and the
flow begins to run in a free context only. -/
theorem FlowMove.quiet {fl' : Flow} (hs : FlowsInv s) (ht : SetsFlow s t f fl') (hn : Flow.Next s.cfg (s.flow f) fl')
    (hv : (s.flow f).phase = .live → ∀ v ∈ lineLevels (s.flow f).pc, v ∈ lineLevels fl'.pc)
    (hr : fl'.running → (s.flow f).running ∨ s.ctxFree f = true) : FlowMove s t f := by
  have e : t.flow f = fl' := by rw [ht.flow, if_pos rfl]
  exact
    { cfg := ht.cfg
      others := fun g hg => by rw [ht.flow, if_neg hg]
      present := hn.present
      conf := by rw [e, hn.conf]
      phase := .inl (by rw [e, hn.phase])
      ok := by rw [e]; exact hn.ok
      owner := fun x => by rw [ht.owner, e, hn.held]; exact hs.owners x f
      otherOwners := fun x g _ => by rw [ht.owner]
      line := fun h => by
        rw [e, hn.phase] at h
        rw [e, ht.latch]; exact latchOk_iff.2 (hv h _ (latchOk_iff.1 (hs.latches f h)))
      otherLines := fun l _ => ht.latch l
      context := by rw [e]; exact hr }

/-- A transition to another step that leaves the line alone. -/
theorem FlowMove.advance {j k : StepCode} {tr : Bool} {tm : Int} {p : PortOp} {w : Work} (hs : FlowsInv s)
    (hl : (s.flow f).phase = .live) (hj : (s.flow f).pc = j) (hr : (s.flow f).running ∨ s.ctxFree f = true)
    (ht : SetsFlow s t f { s.flow f with pc := k, inflight := p, work := w, trig := tr, timer := tm })
    (hb : (s.flow f).conf.xp = true → (3#4 ≤ k ∧ k ≤ 11#4 ↔ 3#4 ≤ j ∧ j ≤ 11#4)) (hm : 0 ≤ tm) (hp : p = .none)
    (hw : w = .idle) (hk : 1#4 ≤ k ∧ k ≤ 12#4 ∧ ∀ v ∈ lineLevels j, v ∈ lineLevels k) : FlowMove s t f :=
  .quiet hs ht (Flow.next_advance (hs.flows f) hl ⟨hk.1, hk.2.1⟩ (hj ▸ hb) hm hp hw) (fun _ => hj ▸ hk.2.2) fun _ => hr

/-- A transition to another step that drives the line to the level `v` of that step. -/
theorem FlowMove.drive {j k : StepCode} {v : Level} {p : PortOp} (hs : FlowsInv s) (hl : (s.flow f).phase = .live)
    (hj : (s.flow f).pc = j) (hr : (s.flow f).running ∨ s.ctxFree f = true)
    (ht : SetsFlow (s.setLatch (s.flow f).conf.latch v) t f { s.flow f with pc := k, inflight := p })
    (hp : p = .none) (hw : (s.flow f).work = .idle)
    (hk : (3#4 ≤ k ∧ k ≤ 11#4) ∧ (3#4 ≤ j ∧ j ≤ 11#4) ∧ 1#4 ≤ k ∧ k ≤ 12#4 ∧ v ∈ lineLevels k) : FlowMove s t f := by
  obtain ⟨hbk, hbj, h1, h12, hv⟩ := hk
  have e : t.flow f = { s.flow f with pc := k, inflight := p } := by rw [ht.flow, if_pos rfl]
  have hn := Flow.next_advance (k := k) (tr := (s.flow f).trig) (tm := (s.flow f).timer) (hs.flows f) hl
    ⟨h1, h12⟩ (fun _ => by rw [hj]; exact iff_of_true hbk hbj) ((hs.flows f).stepping hl).2.2 hp hw
  exact
    { cfg := ht.cfg
      others := fun g hg => by rw [ht.flow, if_neg hg]; rfl
      present := hn.present
      conf := by rw [e]
      phase := .inl (by rw [e])
      ok := by rw [e]; exact hn.ok
      owner := fun x => by rw [ht.owner, e]; exact hs.owners x f
      otherOwners := fun x g _ => by rw [ht.owner]; rfl
      line := fun _ => by rw [e, ht.latch, State.setLatch_latch, if_pos rfl]; exact latchOk_iff.2 hv
      otherLines := fun l h => by
        rw [ht.latch, State.setLatch_latch, if_neg fun hn => h ⟨hn, by rw [e]; exact hl⟩]
      context := fun _ => hr }

/-- A transition to another step at which the flow takes its primitive, which no other flow owns, or gives it back. -/
theorem FlowMove.exchange {j k : StepCode} {o : Option Nat} {b : Bool} {p : PortOp} (hs : FlowsInv s)
    (hl : (s.flow f).phase = .live) (hj : (s.flow f).pc = j) (hr : (s.flow f).running ∨ s.ctxFree f = true)
    (ht : SetsFlow (s.setOwner (s.flow f).conf.xid o) t f { s.flow f with pc := k, held := b, inflight := p })
    (ho : ∀ g, o = some g ↔ b = true ∧ f = g) (hfree : ∀ g, s.owner (s.flow f).conf.xid = some g → f = g)
    (hx : (s.flow f).conf.xp = true) (hp : p = .none) (hw : (s.flow f).work = .idle)
    (hk : (b = true ↔ 3#4 ≤ k ∧ k ≤ 11#4) ∧ 1#4 ≤ k ∧ k ≤ 12#4 ∧ ∀ v ∈ lineLevels j, v ∈ lineLevels k) :
    FlowMove s t f := by
  obtain ⟨hb, h1, h12, hv⟩ := hk
  have e : t.flow f = { s.flow f with pc := k, held := b, inflight := p } := by rw [ht.flow, if_pos rfl]
  have hok := hs.flows f
  exact
    { cfg := ht.cfg
      others := fun g hg => by rw [ht.flow, if_neg hg]; rfl
      present := by rw [hl]; decide
      conf := by rw [e]
      phase := .inl (by rw [e])
      ok := by
        rw [e]
        exact
          { stopped := fun hn => absurd hl hn
            stepping := fun _ => ⟨h1, h12, (hok.stepping hl).2.2⟩
            opened := hok.opened
            held := hb.trans ⟨fun h => ⟨hx, hl, h⟩, fun h => h.2.2⟩
            inflight := inflightOk_none hp
            work := workOk_idle hw }
      owner := fun x => by
        rw [ht.owner, State.setOwner_owner, e]
        split
        · rename_i hxx; rw [ho]; simp [hxx]
        · rename_i hxx; rw [hs.owners]; simp [Ne.symm hxx]
      otherOwners := fun x g hg => by
        rw [ht.owner, State.setOwner_owner]
        split
        · rename_i hxx
          rw [ho, hxx]
          exact iff_of_false (fun h => hg h.2.symm) fun h => hg (hfree g h).symm
        · rfl
      line := fun _ => by
        rw [e, ht.latch]
        have h := latchOk_iff.1 (hs.latches f hl)
        rw [hj] at h
        exact latchOk_iff.2 (hv _ h)
      otherLines := fun l _ => ht.latch l
      context := fun _ => hr }

/-- The line of a flow that is not live yet has never been driven (rules R34, R142). -/
theorem FlowsInv.undriven (hs : FlowsInv s) (hv : (s.flow f).phase ≠ .void) (hl : (s.flow f).phase ≠ .live) :
    s.latch (s.flow f).conf.latch = .x := by
  by_contra hn
  obtain ⟨g, hg, hgl⟩ := hs.driven _ hn
  have hne : g ≠ f := fun e => hl (e ▸ hg)
  exact (hs.sharing g f hne (by rw [hg]; decide) hv).2 hgl

/-- FINIT makes a constructed flow live at step 1 (rule R143). -/
theorem FlowMove.start (hs : FlowsInv s) (hp : (s.flow f).phase = .constructed)
    (ht : SetsFlow s t f ({ s.flow f with inflight := .none } : Flow).start) : FlowMove s t f := by
  have e : t.flow f = ({ s.flow f with inflight := .none } : Flow).start := by rw [ht.flow, if_pos rfl]
  have hok := hs.flows f
  have hv : (s.flow f).phase ≠ .void := by rw [hp]; decide
  have hl : (s.flow f).phase ≠ .live := by rw [hp]; decide
  have hh : (s.flow f).held = false := (hok.stopped hl).2.2
  have hper : 0 < (s.flow f).conf.period := (hs.confs f hv).2.2.2.2.1
  exact
    { cfg := ht.cfg
      others := fun g hg => by rw [ht.flow, if_neg hg]
      present := hv
      conf := by rw [e]; rfl
      phase := .inr (by rw [e]; rfl)
      ok := by
        rw [e]
        exact
          { stopped := fun hn => absurd rfl hn
            stepping := fun _ => ⟨(by decide : 1#4 ≤ 1#4), (by decide : 1#4 ≤ 12#4), hper.le⟩
            opened := iff_of_true rfl rfl
            held := iff_of_false (fun h => nomatch hh.symm.trans h)
              fun h => absurd h.2.2.1 (by decide : ¬ 3#4 ≤ 1#4)
            inflight := inflightOk_none rfl
            work := workOk_idle (hok.work_idle (.inr hl)) }
      owner := fun x => by rw [ht.owner, e]; exact hs.owners x f
      otherOwners := fun x g _ => by rw [ht.owner]
      line := fun _ => by
        rw [e, ht.latch, hs.undriven hv hl]
        exact latchOk_iff.2 (by decide : Level.x ∈ lineLevels 1#4)
      otherLines := fun l _ => ht.latch l
      context := fun h => absurd (by rw [e]; rfl) h.2.1 }

/-- FNEW constructs a flow under the sharing rules (rules R141, R142). -/
theorem FlowsInv.construct {r : FlowRecord} (hs : FlowsInv s) (hf : f < s.cfg.nFlows) (hv : (s.flow f).phase = .void)
    (hr : ConfOk s.cfg r) (hsh : s.sharingOk r = true) : FlowsInv (s.setFlow f ((s.flow f).construct r)) := by
  have hok := hs.flows f
  have hl : (s.flow f).phase ≠ .live := by rw [hv]; decide
  have hh : (s.flow f).held ≠ true := by rw [(hok.stopped hl).2.2]; decide
  have share : ∀ g, (s.flow g).phase ≠ .void → r.mayShare (s.flow g).conf := fun g hg =>
    (sharingOk_iff.1 hsh g (hs.confs g hg).1).resolve_left hg
  have old : ∀ g, g ≠ f → (s.setFlow f ((s.flow f).construct r)).flow g = s.flow g := fun g hg => by
    rw [State.setFlow_flow, if_neg hg]
  have new : (s.setFlow f ((s.flow f).construct r)).flow f = (s.flow f).construct r := by
    rw [State.setFlow_flow, if_pos rfl]
  have live : ∀ g, ((s.setFlow f ((s.flow f).construct r)).flow g).phase = .live →
      (s.setFlow f ((s.flow f).construct r)).flow g = s.flow g := fun g hg =>
    old g fun e => by rw [e, new] at hg; cases hg
  exact
    { confs := fun g hg => by
        by_cases e : g = f
        · rw [e, new]; exact ⟨hf, hr⟩
        · rw [old g e] at hg ⊢; exact hs.confs g hg
      sharing := fun g k hne hg hk => by
        by_cases eg : g = f
        · subst eg
          rw [old k hne.symm] at hk ⊢
          rw [new]; exact share k hk
        · rw [old g eg] at hg ⊢
          by_cases ek : k = f
          · subst ek
            obtain ⟨hb, hlatch⟩ := share g hg
            rw [new]
            refine ⟨fun h => ?_, Ne.symm hlatch⟩
            obtain ⟨h1, h2, h3⟩ := hb h.symm
            exact ⟨h2, h1, h3.symm⟩
          · rw [old k ek] at hk ⊢; exact hs.sharing g k hne hg hk
      flows := fun g => by
        by_cases e : g = f
        · rw [e, new]
          exact
            { stopped := fun _ => ⟨rfl, rfl, rfl⟩
              stepping := fun h => nomatch h
              opened := iff_of_false Bool.false_ne_true fun h => nomatch h
              held := iff_of_false Bool.false_ne_true fun h => nomatch h.2.1
              inflight := inflightOk_none rfl
              work := workOk_idle (hok.work_idle (.inr hl)) }
        · rw [old g e]; exact hs.flows g
      owners := fun x g => by
        by_cases e : g = f
        · subst e
          rw [new]
          exact iff_of_false (fun h => hh ((hs.owners x g).1 h).1) fun h => Bool.false_ne_true h.1
        · rw [old g e]; exact hs.owners x g
      latches := fun g hg => by
        have e := live g hg
        rw [e] at hg ⊢; exact hs.latches g hg
      driven := fun l hl' => by
        obtain ⟨g, hg, hgl⟩ := hs.driven l hl'
        have e : g ≠ f := fun e => hl (e ▸ hg)
        exact ⟨g, by rw [old g e]; exact hg, by rw [old g e]; exact hgl⟩
      contexts := fun g k hne hg hk => by
        have eg := live g hg.1
        have ek := live k hk.1
        rw [eg] at hg ⊢
        rw [ek] at hk ⊢
        exact hs.contexts g k hne hg hk }

end Sys2Proof.Machine
end

section
/-! SUPPORT. Every move keeps the invariant of the flows: one lemma per step of the refresh cycle and per port
operation, and for the time base. -/

namespace Sys2Proof.Machine

variable {s t : State} {c : Config} {f : Nat} {fl : Flow}

/-- A live flow is not VOID (rule R26). -/
theorem Flow.present_of_live (h : fl.phase = .live) : fl.phase ≠ .void := by rw [h]; decide

/-- A constructed flow is neither VOID nor live (rule R26). -/
theorem Flow.not_live_of_constructed (h : fl.phase = .constructed) : fl.phase ≠ .void ∧ fl.phase ≠ .live := by
  rw [h]; decide

/-- Past step 2 a live flow runs (rule R177). -/
theorem Flow.running_at {j : StepCode} (hl : fl.phase = .live) (hj : fl.pc = j) (h : j ≠ 1#4 ∧ j ≠ 2#4) : fl.running :=
  ⟨hl, hj ▸ h.1, fun hn => h.2 (hj ▸ hn.1)⟩

/-- The conditions of a step, said of the flow whose turn it is. -/
theorem stepTaken_flow {j : StepCode} {w : PortOp} (h : s.stepTaken j w) :
    (s.flow s.bus.flow).phase = .live ∧ (s.flow s.bus.flow).pc = j ∧
    ((s.flow s.bus.flow).inflight = .none ∨ (s.flow s.bus.flow).inflight = w) ∧ s.ctxFree s.bus.flow = true := h

/-- In a step without memory events none is outstanding. -/
theorem FlowsInv.work_idle_at {j : StepCode} (hs : FlowsInv s) (hj : (s.flow f).pc = j) (h : j ≠ 4#4 ∧ j ≠ 8#4) :
    (s.flow f).work = .idle :=
  work_eq_idle ((hs.flows f).not_gather (.inr (.inr (.inl (hj ▸ h.1)))))
    ((hs.flows f).not_store (.inr (.inr (.inl (hj ▸ h.2)))))

/-- While a port operation is in flight no memory event is outstanding. -/
theorem FlowsInv.work_idle_waiting {p : PortOp} (hs : FlowsInv s) (hi : (s.flow f).inflight = p) (hp : p ≠ .none) :
    (s.flow f).work = .idle := (hs.flows f).work_idle (.inl (hi ▸ hp))

/-- The timer of a live flow is never below 0 (rule R31). -/
theorem FlowsInv.timer_nonneg (hs : FlowsInv s) (hl : (s.flow f).phase = .live) : 0 ≤ (s.flow f).timer :=
  ((hs.flows f).stepping hl).2.2

/-- A transition of a live flow inside its step. -/
theorem FlowMove.stay {p : PortOp} {w : Work} {n : Nat} (hs : FlowsInv s) (hl : (s.flow f).phase = .live)
    (hr : (s.flow f).running ∨ s.ctxFree f = true)
    (ht : SetsFlow s t f { s.flow f with inflight := p, work := w, hold := n })
    (hi : InflightOk s.cfg { s.flow f with inflight := p, work := w, hold := n })
    (hw : WorkOk { s.flow f with inflight := p, work := w, hold := n }) : FlowMove s t f :=
  .quiet hs ht (Flow.next_stay (hs.flows f) (Flow.present_of_live hl) (.inr rfl) (fun _ => hs.timer_nonneg hl) hi hw)
    (fun _ _ h => h) fun _ => hr

/-- A change of what a constructed flow has in flight. -/
theorem FlowMove.unborn {p : PortOp} (hs : FlowsInv s) (hp : (s.flow f).phase = .constructed)
    (ht : SetsFlow s t f { s.flow f with inflight := p }) (hi : InflightOk s.cfg { s.flow f with inflight := p }) :
    FlowMove s t f := by
  obtain ⟨hv, hl⟩ := Flow.not_live_of_constructed hp
  exact .quiet hs ht (Flow.next_stay (hs.flows f) hv (.inr rfl) (fun h => absurd h hl) hi
    (workOk_idle ((hs.flows f).work_idle (.inr hl)))) (fun _ _ h => h) fun h => absurd h.1 hl

/-! One lemma per step and port operation: its moves are transitions of the flow whose turn it is. -/

theorem s1_flowMove (hs : FlowsInv s) (h : Move s .s1Wait t) : FlowMove s t s.bus.flow := by
  cases h with
  | s1Leave h hd =>
    obtain ⟨hl, hj, hi, hc⟩ := stepTaken_flow h
    exact .advance hs hl hj (.inr hc) (((SetsFlow.refl s _).setFlow _).emit _) (fun _ => by decide)
      (hs.timer_nonneg hl) (hi.elim id id) (hs.work_idle_at hj (by decide)) (by decide)

theorem s2_flowMove (hs : FlowsInv s) (h : Move s .s2Acq t) : FlowMove s t s.bus.flow := by
  cases h with
  | s2Ask h hx =>
    obtain ⟨hl, hj, hi, hc⟩ := stepTaken_flow h
    exact .stay hs hl (.inr hc) ((SetsFlow.refl s _).issue _) (show _ ∧ _ from ⟨hl, hj, hx, rfl⟩)
      (workOk_idle (hs.work_idle_at hj (by decide)))
  | s2Pass h hx =>
    obtain ⟨hl, hj, hi, hc⟩ := stepTaken_flow h
    exact .advance hs hl hj (.inr hc) ((SetsFlow.refl s _).goto _) (fun h => nomatch h.symm.trans hx)
      (hs.timer_nonneg hl) (hi.elim id id) (hs.work_idle_at hj (by decide)) (by decide)

theorem s3_flowMove (hs : FlowsInv s) (h : Move s .s3LatchLow t) : FlowMove s t s.bus.flow := by
  cases h with
  | s3 h =>
    obtain ⟨hl, hj, hi, hc⟩ := stepTaken_flow h
    exact .drive hs hl hj (.inr hc) (((SetsFlow.refl _ _).emit _).goto _) (hi.elim id id)
      (hs.work_idle_at hj (by decide)) (by decide)

/-- The bytes gathered are never more than the buffer has. -/
theorem gathered_le (h : WorkOk fl) : fl.gathered.length ≤ fl.conf.olen := by
  unfold Flow.gathered
  unfold WorkOk at h
  split <;> simp_all

theorem s4_flowMove (hs : FlowsInv s) (h : Move s .s4SerOut t) : FlowMove s t s.bus.flow := by
  cases h with
  | s4Gather v h hop hlt =>
    obtain ⟨hl, hj, hi, hc⟩ := stepTaken_flow h
    refine .stay hs hl (.inr hc) ((SetsFlow.refl s _).setFlow _) (inflightOk_none (hi.elim id id))
      (show _ ∧ _ from ⟨hl, hj, hop, hi.elim id id, ?_⟩)
    rw [List.length_append]
    exact hlt
  | s4Issue h hop hge =>
    obtain ⟨hl, hj, hi, hc⟩ := stepTaken_flow h
    have hlen : (s.flow s.bus.flow).gathered.length = (s.flow s.bus.flow).conf.olen :=
      Nat.le_antisymm (gathered_le (hs.flows _).work) (Nat.le_of_not_lt hge)
    exact .stay hs hl (.inr hc) ((SetsFlow.refl s _).setFlow _)
      (show _ ∧ _ from ⟨hlen, hl, .inl ⟨hj, hop, rfl⟩⟩) (workOk_idle rfl)
  | s4Pass h hop =>
    obtain ⟨hl, hj, hi, hc⟩ := stepTaken_flow h
    have hw := work_eq_idle ((hs.flows s.bus.flow).not_gather (.inr (.inr (.inr hop))))
      ((hs.flows _).not_store (.inr (.inr (.inl (by rw [hj]; decide)))))
    exact .advance hs hl hj (.inr hc) ((SetsFlow.refl s _).goto _) (fun _ => by decide)
      (hs.timer_nonneg hl) (hi.elim id id) hw (by decide)

theorem s5_flowMove (hs : FlowsInv s) (h : Move s .s5Filler t) : FlowMove s t s.bus.flow := by
  cases h with
  | s5Issue h hop hip =>
    obtain ⟨hl, hj, hi, hc⟩ := stepTaken_flow h
    exact .stay hs hl (.inr hc) ((SetsFlow.refl s _).issue _) (show _ ∧ _ from ⟨rfl, hl, .inr ⟨hj, hop, hip, rfl⟩⟩)
      (workOk_idle (hs.work_idle_at hj (by decide)))
  | s5Pass h hn =>
    obtain ⟨hl, hj, hi, hc⟩ := stepTaken_flow h
    exact .advance hs hl hj (.inr hc) ((SetsFlow.refl s _).goto _) (fun _ => by decide)
      (hs.timer_nonneg hl) (hi.elim id id) (hs.work_idle_at hj (by decide)) (by decide)

theorem s6_flowMove (hs : FlowsInv s) (h : Move s .s6SettlePre t) : FlowMove s t s.bus.flow := by
  cases h with
  | s6Begin h hi =>
    obtain ⟨hl, hj, -, hc⟩ := stepTaken_flow h
    exact .stay hs hl (.inr hc) ((SetsFlow.refl s _).setFlow _) (show _ ∧ _ from ⟨hl, hj⟩)
      (workOk_idle (hs.work_idle_at hj (by decide)))
  | s6End h hi hz =>
    obtain ⟨hl, hj, -, hc⟩ := stepTaken_flow h
    exact .advance hs hl hj (.inr hc) (((SetsFlow.refl s _).setFlow _).emit _) (fun _ => by decide)
      (hs.timer_nonneg hl) rfl (hs.work_idle_at hj (by decide)) (by decide)

theorem s7_flowMove (hs : FlowsInv s) (h : Move s .s7LatchHigh t) : FlowMove s t s.bus.flow := by
  cases h with
  | s7 h =>
    obtain ⟨hl, hj, hi, hc⟩ := stepTaken_flow h
    exact .drive hs hl hj (.inr hc) (((SetsFlow.refl _ _).emit _).goto _) (hi.elim id id)
      (hs.work_idle_at hj (by decide)) (by decide)

theorem s8_flowMove (hs : FlowsInv s) (h : Move s .s8DeserIn t) : FlowMove s t s.bus.flow := by
  cases h with
  | s8Issue h hip hns =>
    obtain ⟨hl, hj, hi, hc⟩ := stepTaken_flow h
    have hw := work_eq_idle ((hs.flows s.bus.flow).not_gather (.inr (.inr (.inl (by rw [hj]; decide))))) hns
    exact .stay hs hl (.inr hc) ((SetsFlow.refl s _).issue _) (show _ ∧ _ from ⟨hl, hj, hip, rfl⟩) (workOk_idle hw)
  | s8Store k v rest h hip hw hm ha =>
    obtain ⟨hl, hj, hi, hc⟩ := stepTaken_flow h
    have hw' := (hs.flows s.bus.flow).work
    rw [WorkOk, show (s.flow s.bus.flow).work = _ from hw] at hw'
    obtain ⟨-, -, -, -, hlen⟩ := hw'
    refine .stay hs hl (.inr hc) (((SetsFlow.refl s _).setFlow _).withMem _) (inflightOk_none (hi.elim id id))
      (show _ ∧ _ from ⟨hl, hj, hip, hi.elim id id, ?_⟩)
    rw [List.length_cons] at hlen
    exact (by omega : k + 1 + rest.length = (s.flow s.bus.flow).conf.ilen)
  | s8End k h hip hw =>
    obtain ⟨hl, hj, hi, hc⟩ := stepTaken_flow h
    exact .advance hs hl hj (.inr hc) ((SetsFlow.refl s _).setFlow _) (fun _ => by decide)
      (hs.timer_nonneg hl) (hi.elim id id) rfl (by decide)
  | s8Pass h hip =>
    obtain ⟨hl, hj, hi, hc⟩ := stepTaken_flow h
    have hw := work_eq_idle ((hs.flows s.bus.flow).not_gather (.inr (.inr (.inl (by rw [hj]; decide)))))
      ((hs.flows _).not_store (.inr (.inr (.inr hip))))
    exact .advance hs hl hj (.inr hc) ((SetsFlow.refl s _).goto _) (fun _ => by decide)
      (hs.timer_nonneg hl) (hi.elim id id) hw (by decide)

theorem s9_flowMove (hs : FlowsInv s) (h : Move s .s9SettlePost t) : FlowMove s t s.bus.flow := by
  cases h with
  | s9Begin h hi =>
    obtain ⟨hl, hj, -, hc⟩ := stepTaken_flow h
    exact .stay hs hl (.inr hc) ((SetsFlow.refl s _).setFlow _) (show _ ∧ _ from ⟨hl, hj⟩)
      (workOk_idle (hs.work_idle_at hj (by decide)))
  | s9End h hi hz =>
    obtain ⟨hl, hj, -, hc⟩ := stepTaken_flow h
    exact .advance hs hl hj (.inr hc) (((SetsFlow.refl s _).setFlow _).emit _) (fun _ => by decide)
      (hs.timer_nonneg hl) rfl (hs.work_idle_at hj (by decide)) (by decide)

theorem s10_flowMove (hs : FlowsInv s) (h : Move s .s10LatchLow t) : FlowMove s t s.bus.flow := by
  cases h with
  | s10 h =>
    obtain ⟨hl, hj, hi, hc⟩ := stepTaken_flow h
    exact .drive hs hl hj (.inr hc) (((SetsFlow.refl _ _).emit _).goto _) (hi.elim id id)
      (hs.work_idle_at hj (by decide)) (by decide)

theorem s11_flowMove (hs : FlowsInv s) (h : Move s .s11Rel t) : FlowMove s t s.bus.flow := by
  cases h with
  | s11Release h hh =>
    obtain ⟨hl, hj, hi, hc⟩ := stepTaken_flow h
    obtain ⟨hx, -⟩ := (hs.flows s.bus.flow).held.1 hh
    have hown : s.owner (s.flow s.bus.flow).conf.xid = some s.bus.flow := (hs.owners _ _).2 ⟨hh, rfl⟩
    exact .exchange (b := false) hs hl hj (.inr hc) (((SetsFlow.refl _ _).emit _).setFlow _) (fun g => by simp)
      (fun g hg => Option.some.inj (hown.symm.trans hg)) hx (hi.elim id id) (hs.work_idle_at hj (by decide)) (by decide)
  | s11Pass h hh =>
    obtain ⟨hl, hj, hi, hc⟩ := stepTaken_flow h
    have hx : (s.flow s.bus.flow).conf.xp ≠ true := fun hx =>
      nomatch ((hs.flows _).held.2 ⟨hx, hl, by rw [hj]; decide⟩).symm.trans hh
    exact .advance hs hl hj (.inr hc) ((SetsFlow.refl s _).goto _) (fun h => absurd h hx)
      (hs.timer_nonneg hl) (hi.elim id id) (hs.work_idle_at hj (by decide)) (by decide)

theorem s12_flowMove (hs : FlowsInv s) (h : Move s .s12Loop t) : FlowMove s t s.bus.flow := by
  cases h with
  | s12 h =>
    obtain ⟨hl, hj, hi, hc⟩ := stepTaken_flow h
    have hp : 0 < (s.flow s.bus.flow).conf.period := (hs.confs _ (Flow.present_of_live hl)).2.2.2.2.1
    exact .advance hs hl hj (.inr hc) ((SetsFlow.refl s _).setFlow _) (fun _ => by decide)
      hp.le (hi.elim id id) (hs.work_idle_at hj (by decide)) (by decide)

/-- A latch or exclusion operation is never in flight by itself (rules R190, R191, R196). -/
theorem FlowsInv.no_line_operation (hs : FlowsInv s)
    (h : (s.flow f).inflight = .lclr ∨ (s.flow f).inflight = .lset ∨ (s.flow f).inflight = .xrel) : False := by
  have hi := (hs.flows f).inflight
  rcases h with h | h | h <;> simp [InflightOk, h] at hi

/-- TOPEN is in flight of a constructed flow only (rule R143). -/
theorem FlowsInv.topen_inflight (hs : FlowsInv s) (h : (s.flow f).inflight = .topen) :
    (s.flow f).phase = .constructed := by
  have hi := (hs.flows f).inflight
  rwa [InflightOk, h] at hi

/-- TWRITE is in flight in S4 and S5 only (rules R164, R165). -/
theorem FlowsInv.twrite_inflight {bytes : List Byte} {n : Nat} (hs : FlowsInv s)
    (h : (s.flow f).inflight = .twrite bytes n) :
    (s.flow f).phase = .live ∧ ((s.flow f).pc = 4#4 ∨ (s.flow f).pc = 5#4) := by
  have hi := (hs.flows f).inflight
  rw [InflightOk, h] at hi
  exact ⟨hi.2.1, hi.2.2.imp And.left And.left⟩

/-- TREAD is in flight in S8 only, for all bytes of the IN buffer (rule R168). -/
theorem FlowsInv.tread_inflight {n : Nat} (hs : FlowsInv s) (h : (s.flow f).inflight = .tread n) :
    (s.flow f).phase = .live ∧ (s.flow f).pc = 8#4 ∧ (s.flow f).conf.ip = true ∧ n = (s.flow f).conf.ilen := by
  have hi := (hs.flows f).inflight
  rwa [InflightOk, h] at hi

/-- XACQ is in flight in S2 only, for the primitive of the flow (rule R162). -/
theorem FlowsInv.xacq_inflight {x : Nat} (hs : FlowsInv s) (h : (s.flow f).inflight = .xacq x) :
    (s.flow f).phase = .live ∧ (s.flow f).pc = 2#4 ∧ (s.flow f).conf.xp = true ∧ x = (s.flow f).conf.xid := by
  have hi := (hs.flows f).inflight
  rwa [InflightOk, h] at hi

theorem topen_flowMove (hs : FlowsInv s) (h : Move s .topen t) : FlowMove s t s.bus.flow := by
  cases h with
  | topenLate hi hp => exact absurd (hs.topen_inflight hi) hp
  | topenStart hi hp ho => exact .start hs hp (((SetsFlow.refl s _).answered.emit _).setFlow _)
  | topenHalt hi hp ho =>
    exact .unborn hs hp (((SetsFlow.refl s _).answered.emit _).raiseFatal _ _) (inflightOk_none rfl)

theorem twrite_flowMove (hs : FlowsInv s) (h : Move s .twrite t) : FlowMove s t s.bus.flow := by
  cases h with
  | twriteLate bytes n hi h4 h5 => exact absurd (hs.twrite_inflight hi).2 (not_or.2 ⟨h4, h5⟩)
  | twriteHalt bytes n hi hc =>
    obtain ⟨hl, hj⟩ := hs.twrite_inflight hi
    have hr : (s.flow s.bus.flow).running := hj.elim (fun hj => Flow.running_at hl hj (by decide))
      fun hj => Flow.running_at hl hj (by decide)
    have hw := hs.work_idle_waiting hi (fun h => nomatch h)
    exact .stay hs hl (.inl hr) (((SetsFlow.refl s _).answered.emit _).raiseFatal _ _) (inflightOk_none rfl)
      (workOk_idle hw)
  | twriteS4 bytes n hi hj hc =>
    obtain ⟨hl, -⟩ := hs.twrite_inflight hi
    have hw := hs.work_idle_waiting hi (fun h => nomatch h)
    exact .advance hs hl hj (.inl (Flow.running_at hl hj (by decide))) (((SetsFlow.refl s _).answered.emit _).goto _)
      (fun _ => by decide) (hs.timer_nonneg hl) rfl hw (by decide)
  | twriteS5 bytes n hi hj hc =>
    obtain ⟨hl, -⟩ := hs.twrite_inflight hi
    have hw := hs.work_idle_waiting hi (fun h => nomatch h)
    exact .drive (v := .low) (k := 6#4) (p := .none) hs hl hj (.inl (Flow.running_at hl hj (by decide)))
      ⟨rfl, fun g => by simp; split <;> rfl, fun l => by simp, fun _ => rfl⟩ rfl hw (by decide)

theorem tread_flowMove (hs : FlowsInv s) (h : Move s .tread t) : FlowMove s t s.bus.flow := by
  cases h with
  | treadLate n hi h8 => exact absurd (hs.tread_inflight hi).2.1 h8
  | treadHalt n hi hj hc =>
    obtain ⟨hl, hj, -, -⟩ := hs.tread_inflight hi
    have hw := hs.work_idle_waiting hi (fun h => nomatch h)
    exact .stay hs hl (.inl (Flow.running_at hl hj (by decide))) (((SetsFlow.refl s _).answered.emit _).raiseFatal _ _)
      (inflightOk_none rfl) (workOk_idle hw)
  | treadS8 n hi hj hc hd =>
    obtain ⟨hl, hj, hip, hn⟩ := hs.tread_inflight hi
    have hlen : s.bus.data.length = (s.flow s.bus.flow).conf.ilen := (hd (by rw [hn]; exact hc)).trans hn
    exact .stay hs hl (.inl (Flow.running_at hl hj (by decide))) (((SetsFlow.refl s _).answered.emit _).setFlow _)
      (inflightOk_none rfl) (show _ ∧ _ from ⟨hl, hj, hip, rfl, (Nat.zero_add _).trans hlen⟩)

theorem xacq_flowMove (hs : FlowsInv s) (h : Move s .xacq t) : FlowMove s t s.bus.flow := by
  cases h with
  | xacqGrant x hi ho hc hj =>
    obtain ⟨hl, hj, hx, rfl⟩ := hs.xacq_inflight hi
    have hw := hs.work_idle_waiting hi (fun h => nomatch h)
    exact .exchange (o := some s.bus.flow) (b := true) (k := 3#4) (p := .none) hs hl hj (.inr hc)
      ⟨rfl, fun g => by simp [State.actor, Flow.setHeld]; split <;> simp, fun _ => rfl, fun x => by simp⟩
      (fun g => by simp) (fun g hg => nomatch ho.symm.trans hg) hx rfl hw (by decide)
  | xacqLate x hi ho hc hj => exact absurd (hs.xacq_inflight hi).2.1 hj

theorem finit_flowsInv {g : Id} (hs : FlowsInv s) (h : Move s (.finit g) t) : FlowsInv t := by
  cases h with
  | finitRefuse _ r hp => exact hs.congr rfl rfl rfl rfl
  | finitIssue _ hp hg hph hi =>
    exact FlowMove.flowsInv hs (.unborn hs hph (((SetsFlow.refl s _).issue _).setPort _ _) hph)

theorem ftrig_flowsInv {g : Id} (hs : FlowsInv s) (h : Move s (.ftrig g) t) : FlowsInv t := by
  cases h with
  | ftrigRefuse _ r hp => exact hs.congr rfl rfl rfl rfl
  | ftrigSet _ hp hg hl =>
    have hok := hs.flows g.toNat
    exact FlowMove.flowsInv hs (.quiet hs ((SetsFlow.refl s _).setFlow _)
      (Flow.next_stay hok (Flow.present_of_live hl) (.inl hl) (fun _ => hs.timer_nonneg hl) hok.inflight hok.work)
      (fun _ _ h => h) .inl)


/-- Nothing of a VOID flow is timed. -/
theorem Flow.tick_of_void (h : FlowOk c fl) (hv : fl.phase = .void) : fl.tick = fl := by
  have hi := h.inflight
  obtain ⟨conf, phase, pc, trig, held, timer, opened, inflight, work, hold⟩ := fl
  subst hv
  cases inflight with
  | delay k => cases k <;> simp [InflightOk] at hi
  | _ => rfl

/-- One unit of the time base keeps the invariant of the flows (rule R197). -/
theorem FlowsInv.tick (hs : FlowsInv s) (f : Nat) : FlowsInv (s.setFlow f (s.flow f).tick) := by
  by_cases hv : (s.flow f).phase = .void
  · have hsame := Flow.tick_of_void (hs.flows f) hv
    refine hs.congr rfl (funext fun g => ?_) rfl rfl
    rw [State.setFlow_flow, hsame]
    split <;> simp_all
  · refine FlowMove.flowsInv hs (.quiet hs ((SetsFlow.refl s f).setFlow _)
      (Flow.next_stay (hs.flows f) hv (.inr rfl) (fun hl => ?_) (hs.flows f).inflight (hs.flows f).work)
      (fun _ _ h => h) .inl)
    have := hs.timer_nonneg hl
    split <;> omega

/-- Every move keeps the invariant of the flows. -/
theorem move_flowsInv {i : Instr} (hs : FlowsInv s) (h : Move s i t) : FlowsInv t := by
  cases i with
  | bnew b => cases h <;> exact hs.congr rfl rfl rfl rfl
  | bread b => cases h <;> exact hs.congr rfl rfl rfl rfl
  | bwrite b v =>
    cases h with
    | bwriteWrite _ _ old _ hp hq hr hw =>
      obtain ⟨⟨m, rfl, -⟩, -⟩ := writeBytes_spec hw
      exact hs.congr rfl rfl rfl rfl
    | _ => exact hs.congr rfl rfl rfl rfl
  | fnew g =>
    cases h with
    | fnewStore _ hp hg hv hc hsh => exact hs.construct hg hv hc hsh
    | _ => exact hs.congr rfl rfl rfl rfl
  | finit g => exact finit_flowsInv hs h
  | ftrig g => exact ftrig_flowsInv hs h
  | s1Wait => exact (s1_flowMove hs h).flowsInv hs
  | s2Acq => exact (s2_flowMove hs h).flowsInv hs
  | s3LatchLow => exact (s3_flowMove hs h).flowsInv hs
  | s4SerOut => exact (s4_flowMove hs h).flowsInv hs
  | s5Filler => exact (s5_flowMove hs h).flowsInv hs
  | s6SettlePre => exact (s6_flowMove hs h).flowsInv hs
  | s7LatchHigh => exact (s7_flowMove hs h).flowsInv hs
  | s8DeserIn => exact (s8_flowMove hs h).flowsInv hs
  | s9SettlePost => exact (s9_flowMove hs h).flowsInv hs
  | s10LatchLow => exact (s10_flowMove hs h).flowsInv hs
  | s11Rel => exact (s11_flowMove hs h).flowsInv hs
  | s12Loop => exact (s12_flowMove hs h).flowsInv hs
  | lclr => cases h with | lclr hi => exact (hs.no_line_operation (.inl hi)).elim
  | lset => cases h with | lset hi => exact (hs.no_line_operation (.inr (.inl hi))).elim
  | topen => exact (topen_flowMove hs h).flowsInv hs
  | twrite => exact (twrite_flowMove hs h).flowsInv hs
  | tread => exact (tread_flowMove hs h).flowsInv hs
  | xacq => exact (xacq_flowMove hs h).flowsInv hs
  | xrel => cases h with | xrel hi => exact (hs.no_line_operation (.inr (.inr hi))).elim

end Sys2Proof.Machine
end

section
/-! SUPPORT. The invariant of `MEM` and the write-backs in progress, and when a transition keeps it (rules R70, R75). -/

namespace Sys2Proof.Machine

variable {s t : State} {c : Config}

/-- The part of the invariant about `MEM` and the write-backs in progress (rules R70, R75). -/
structure WritersInv (s : State) : Prop where
  mem : Memory.wf s.mem
  writers : ∀ h b v old, (s.port h).pending = .bwrite b v old →
    h < s.cfg.nPorts ∧ s.hasBar b ∧ old = s.granuleAt (s.addrOf b.toNat)
  apart : ∀ h g b c v u old new, h ≠ g → (s.port h).pending = .bwrite b v old → (s.port g).pending = .bwrite c u new →
    wordOf s.cfg (s.addrOf b.toNat) ≠ wordOf s.cfg (s.addrOf c.toNat)

/-- The invariant of the state has that of the writers as a part. -/
theorem Inv.writersInv (h : Inv s) : WritersInv s := ⟨h.mem, h.writers, h.apart⟩

/-- The granule of a byte lies in its word (rules R67, R70). -/
theorem wordOf_granule (hc : c.wf) (a : Nat) {i : Nat} (hi : i < c.granule) :
    wordOf c (granuleBase c a + i) = wordOf c a := by
  obtain ⟨⟨k, -, hw⟩, hg, -⟩ := hc
  have hpos : 0 < c.wordBytes := hw ▸ Nat.two_pow_pos k
  rcases hg with hg | hg
  · obtain rfl : i = 0 := by omega
    rw [granuleBase, hg, Nat.mod_one]; rfl
  · rw [hg] at hi
    have hb : granuleBase c a = c.wordBytes * (a / c.wordBytes) := by
      rw [granuleBase, hg]; have := Nat.div_add_mod a c.wordBytes; omega
    rw [wordOf, hb, Nat.mul_add_div hpos, Nat.div_eq_of_lt hi, Nat.add_zero]; rfl

/-- A granule has `GRANULE` bytes. -/
theorem granuleAt_length (s : State) (a : Nat) : (s.granuleAt a).length = s.cfg.granule := by
  simp [State.granuleAt]

/-- A transition that begins no write-back, changes no valid BAR, and changes no byte of a word that a write-back still
in progress is over, keeps the invariant of the writers. -/
theorem WritersInv.write (hs : WritersInv s) (hwf : s.cfg.wf) (hc : t.cfg = s.cfg) (hm : Memory.wf t.mem)
    (hb : ∀ b, (s.bar b).valid = true → t.bar b = s.bar b)
    (hp : ∀ h b v old, (t.port h).pending = .bwrite b v old → (s.port h).pending = .bwrite b v old)
    (hw : ∀ a, t.byteAt a ≠ s.byteAt a → ∀ h b v old, (t.port h).pending = .bwrite b v old →
      wordOf s.cfg (s.addrOf b.toNat) ≠ wordOf s.cfg a) : WritersInv t := by
  have addr : ∀ h b v old, (t.port h).pending = .bwrite b v old → t.addrOf b.toNat = s.addrOf b.toNat :=
    fun h b v old ht => by
      obtain ⟨-, hbar, -⟩ := hs.writers h b v old (hp h b v old ht)
      rw [State.addrOf, State.addrOf, hc, hb _ hbar.2]
  exact
    { mem := hm
      writers := fun h b v old ht => by
        obtain ⟨hn, hbar, hold⟩ := hs.writers h b v old (hp h b v old ht)
        rw [addr h b v old ht]
        refine ⟨hc ▸ hn, ⟨hc ▸ hbar.1, by rw [hb _ hbar.2]; exact hbar.2⟩, hold.trans ?_⟩
        rw [State.granuleAt, State.granuleAt, hc]
        refine List.map_congr_left fun i hi => ?_
        by_contra hne
        exact hw _ (Ne.symm hne) h b v old ht (wordOf_granule hwf _ (List.mem_range.1 hi)).symm
      apart := fun h g b c v u old new hne h1 h2 => by
        rw [addr h b v old h1, addr g c u new h2, hc]
        exact hs.apart h g b c v u old new hne (hp _ _ _ _ h1) (hp _ _ _ _ h2) }

/-- A transition that begins no write-back, changes no valid BAR and writes no byte. -/
theorem WritersInv.silent (hs : WritersInv s) (hwf : s.cfg.wf) (hc : t.cfg = s.cfg) (hm : t.mem = s.mem)
    (hb : ∀ b, (s.bar b).valid = true → t.bar b = s.bar b)
    (hp : ∀ h b v old, (t.port h).pending = .bwrite b v old → (s.port h).pending = .bwrite b v old) :
    WritersInv t :=
  hs.write hwf hc (hm ▸ hs.mem) hb hp fun a ha => absurd (by rw [State.byteAt, State.byteAt, hm]) ha

/-- A write-back in progress is over no word that its port is in no write-back over. -/
theorem word_ne_of_midWrite {w g : Nat} {b : Id} {v : Bool} {old : List Byte} (h : s.midWrite w g = false)
    (hq : (s.port g).pending = .bwrite b v old) : wordOf s.cfg (s.addrOf b.toNat) ≠ w := fun e =>
  nomatch (midWrite_iff.2 ⟨b, v, old, hq, e⟩).symm.trans h

/-- BWRITE begins a write-back where no other is in progress, and keeps the invariant of the writers (rules R70,
R75). -/
theorem WritersInv.begin {p : Nat} {b : Id} {v : Bool} {old : List Byte} (hs : WritersInv s) (hp : p < s.cfg.nPorts)
    (hb : s.hasBar b) (hr : s.othersMidWrite (wordOf s.cfg (s.addrOf b.toNat)) p = false)
    (ho : old = s.granuleAt (s.addrOf b.toNat)) :
    WritersInv (s.setPort p { s.port p with pending := .bwrite b v old }) := by
  have other : ∀ g c u new, g ≠ p → (s.port g).pending = .bwrite c u new →
      wordOf s.cfg (s.addrOf c.toNat) ≠ wordOf s.cfg (s.addrOf b.toNat) := fun g c u new hg hq =>
    word_ne_of_midWrite (othersMidWrite_eq_false.1 hr g (hs.writers g c u new hq).1 hg) hq
  refine ⟨hs.mem, fun h c u new hq => ?_, fun h g c d u w old new hne h1 h2 => ?_⟩
  · rw [State.setPort_port] at hq
    split at hq
    · cases hq
      exact ⟨‹h = p› ▸ hp, hb, ho⟩
    · exact hs.writers h c u new hq
  · rw [State.setPort_port] at h1 h2
    split at h1
    · cases h1
      rw [if_neg (by omega)] at h2
      exact (other g d w new (by omega) h2).symm
    · split at h2
      · cases h2
        exact other h c u old ‹_› h1
      · exact hs.apart h g c d u w old new hne h1 h2

end Sys2Proof.Machine
end

section
/-! SUPPORT. What any move does to the parameters, the BARs, the halt and `MEM`, from any state; and that every move
keeps the invariant of the writers. -/

namespace Sys2Proof.Machine

variable {s t : State} {i : Instr}

/-- No move changes a parameter (log 1). -/
theorem move_cfg (h : Move s i t) : t.cfg = s.cfg := by
  cases h with
  | bwriteWrite b v old t hp hq hr hw =>
    obtain ⟨⟨m, rfl, -⟩, -⟩ := writeBytes_spec hw
    rfl
  | _ => rfl

/-- A move changes no BAR but an unused one, which gets a descriptor in range (rules R22, R121). -/
theorem move_bar (h : Move s i t) (b : Nat) :
    t.bar b = s.bar b ∨ ((s.bar b).valid = false ∧ b < s.cfg.nBars ∧ BarOk s.cfg (t.bar b).desc) := by
  cases h with
  | bnewStore c hp hn hv hok =>
    by_cases e : b = c.toNat
    · rw [e, State.setBar_bar, if_pos rfl]; exact .inr ⟨hv, hn, hok⟩
    · rw [State.setBar_bar, if_neg e]; exact .inl rfl
  | bwriteWrite c v old t hp hq hr hw =>
    obtain ⟨⟨m, rfl, -⟩, -⟩ := writeBytes_spec hw
    exact .inl rfl
  | _ => exact .inl rfl

/-- A valid BAR never changes (rule R22). -/
theorem move_bar_valid (h : Move s i t) {b : Nat} (hv : (s.bar b).valid = true) : t.bar b = s.bar b :=
  (move_bar h b).resolve_right fun hn => nomatch hv.symm.trans hn.1

/-- A move halts the block with a cause, or changes neither `FATAL` nor its cause (rules R30, R216). -/
theorem move_halt (h : Move s i t) :
    (t.fatal = s.fatal ∧ t.fatalCause = s.fatalCause) ∨ (t.fatal = true ∧ t.fatalCause ≠ .none) := by
  cases h with
  | bwriteWrite b v old t hp hq hr hw =>
    obtain ⟨⟨m, rfl, -⟩, -⟩ := writeBytes_spec hw
    exact .inl ⟨rfl, rfl⟩
  | bnewHalt | fnewHalt | topenHalt | twriteHalt | treadHalt => exact .inr ⟨rfl, fun h => nomatch h⟩
  | _ => exact .inl ⟨rfl, rfl⟩

/-- The write-back of BWRITE, when it answers (rules R70, R123). -/
def State.writeBack (s : State) (b : Id) (v : Bool) (old : List Byte) : Option State :=
  ((s.setPort s.bus.hport { s.port s.bus.hport with pending := .none }).noteWrite s.bus.hport
    (s.addrOf b.toNat) true).writeBytes (granuleBase s.cfg (s.addrOf b.toNat))
    (granuleWith old (s.addrOf b.toNat - granuleBase s.cfg (s.addrOf b.toNat)) (s.bitOf b.toNat)
      ((s.bar b.toNat).desc.toRaw s.cfg v))

/-- A move leaves the table of `MEM` alone, or is a store of S8, or the write-back of BWRITE. -/
theorem move_mem (h : Move s i t) :
    t.mem = s.mem ∨
    (i = .s8DeserIn ∧ s.actor.phase = .live ∧ s.actor.pc = 8#4 ∧ ∃ k v rest, s.actor.work = .store k (v :: rest) ∧
      t.mem = tablePut s.mem (s.actor.conf.iptr + k) v) ∨
    (∃ b v old, i = .bwrite b v ∧ (s.port s.bus.hport).pending = .bwrite b v old ∧ s.writeBack b v old = some t) := by
  cases h with
  | bwriteWrite b v old t hp hq hr hw => exact .inr (.inr ⟨b, v, old, rfl, hq, hw⟩)
  | s8Store k v rest h hip hw hm ha => exact .inr (.inl ⟨rfl, h.1, h.2.1, k, v, rest, hw, rfl⟩)
  | _ => exact .inl rfl

/-- A write-back ends what its port is in the middle of, and no other port has a part in it. -/
theorem writeBack_port {b : Id} {v : Bool} {old : List Byte} (h : s.writeBack b v old = some t) (g : Nat) :
    t.port g = if g = s.bus.hport then { s.port s.bus.hport with pending := .none } else s.port g := by
  obtain ⟨⟨m, rfl, -⟩, -⟩ := writeBytes_spec h
  exact State.setPort_port s _ _ g

/-- A write-back keeps the canonical form of `MEM`. -/
theorem writeBack_wf {b : Id} {v : Bool} {old : List Byte} (h : s.writeBack b v old = some t) (hm : Memory.wf s.mem) :
    Memory.wf t.mem := by
  obtain ⟨⟨m, rfl, hwf⟩, -⟩ := writeBytes_spec h
  exact hwf hm

/-- A granule begins at or below its byte. -/
theorem granuleBase_le (c : Config) (a : Nat) : granuleBase c a ≤ a := Nat.sub_le _ _

/-- A byte lies below the end of its granule. -/
theorem lt_granuleBase_add {c : Config} (hc : c.wf) (a : Nat) : a < granuleBase c a + c.granule := by
  obtain ⟨⟨k, -, hw⟩, hg, -⟩ := hc
  have hpos : 0 < c.granule := by
    have := Nat.two_pow_pos k
    omega
  have hlt := Nat.mod_lt a hpos
  rw [granuleBase]; omega

/-- The bytes of a granule, by their places in it. -/
theorem granuleAt_getD (s : State) (a : Nat) {i : Nat} (hi : i < s.cfg.granule) :
    (s.granuleAt a).getD i 0#8 = s.byteAt (granuleBase s.cfg a + i) := by
  simp [State.granuleAt, List.getD_eq_getElem?_getD, hi]

/-- A write-back of bytes that are up to date changes the one bit of its BAR, and no other byte (rules R123, R124). -/
theorem writeBack_byteAt {b : Id} {v : Bool} {old : List Byte} (hwf : s.cfg.wf)
    (ho : old = s.granuleAt (s.addrOf b.toNat)) (h : s.writeBack b v old = some t) (a : Nat) :
    t.byteAt a = if a = s.addrOf b.toNat then
      setBit (s.byteAt a) (s.bitOf b.toNat) ((s.bar b.toNat).desc.toRaw s.cfg v) else s.byteAt a := by
  have hle := granuleBase_le s.cfg (s.addrOf b.toNat)
  have hlt := lt_granuleBase_add hwf (s.addrOf b.toNat)
  rw [(writeBytes_spec h).2 a, granuleWith, List.length_set, ho, granuleAt_length]
  by_cases hin : granuleBase s.cfg (s.addrOf b.toNat) ≤ a ∧ a < granuleBase s.cfg (s.addrOf b.toNat) + s.cfg.granule
  · have hat : (s.granuleAt (s.addrOf b.toNat)).getD (a - granuleBase s.cfg (s.addrOf b.toNat)) 0#8 = s.byteAt a := by
      rw [granuleAt_getD s _ (by omega), Nat.add_sub_cancel' hin.1]
    rw [if_pos hin]
    by_cases e : a = s.addrOf b.toNat
    · subst e
      rw [if_pos rfl, List.getD_eq_getElem?_getD, List.getElem?_set_self (by rw [granuleAt_length]; omega),
        Option.getD_some, hat]
    · rw [if_neg e, List.getD_eq_getElem?_getD, List.getElem?_set_ne (by omega), ← List.getD_eq_getElem?_getD, hat]
  · rw [if_neg hin, if_neg fun e => hin (by omega)]
    rfl


/-- Every move keeps the invariant of the writers. -/
theorem move_writersInv (hs : WritersInv s) (hwf : s.cfg.wf) (h : Move s i t) : WritersInv t := by
  have hcfg := move_cfg h
  have hbar : ∀ b, (s.bar b).valid = true → t.bar b = s.bar b := fun b hv => move_bar_valid h hv
  cases h with
  | breadAnswer b v hp hb =>
    refine hs.silent hwf rfl rfl hbar fun g c u old hq => ?_
    rw [State.setPort_port] at hq
    split at hq
    · subst_vars; exact hq
    · exact hq
  | finitIssue f hp hf hv hi =>
    refine hs.silent hwf rfl rfl hbar fun g c u old hq => ?_
    rw [State.setPort_port] at hq
    split at hq
    · cases hq
    · exact hq
  | bwriteRead b v old hp hb hr ho =>
    exact hs.begin (portFree_iff.1 hp).1 hb (hostRace_eq_false.1 hr).1 (readBytes_eq_some.1 ho).2
  | bwriteWrite b v old t hp hq hr hw =>
    have keep : ∀ g c u new, (t.port g).pending = .bwrite c u new →
        g ≠ s.bus.hport ∧ (s.port g).pending = .bwrite c u new := fun g c u new hg => by
      rw [writeBack_port hw] at hg
      split at hg
      · cases hg
      · exact ⟨‹_›, hg⟩
    refine hs.write hwf hcfg (writeBack_wf hw hs.mem) hbar (fun g c u new hg => (keep g c u new hg).2)
      fun a ha g c u new hg => ?_
    have e : a = s.addrOf b.toNat := by
      by_contra e
      exact ha (by rw [writeBack_byteAt hwf (hs.writers _ _ _ _ hq).2.2 hw, if_neg e])
    obtain ⟨hne, hg⟩ := keep g c u new hg
    rw [e]; exact hs.apart g _ c b u v new old hne hg hq
  | s8Store k v rest h hip hw hm ha =>
    refine hs.write hwf hcfg (tableSorted_tablePut hs.mem _ _) hbar (fun _ _ _ _ hg => hg) fun a hne g c u new hg => ?_
    have e : a = s.actor.conf.iptr + k := by
      by_contra e
      exact hne ((byteAt_tablePut (s.setFlow _ _) _ a v).trans (if_neg e))
    rw [e]; exact word_ne_of_midWrite (anyMidWrite_eq_false.1 hm g (hs.writers g c u new hg).1) hg
  | _ => exact hs.silent hwf rfl rfl hbar fun _ _ _ _ hg => hg

end Sys2Proof.Machine
end

section
/-! The invariant of the whole state: kept by every transition, met by the state after reset. -/

namespace Sys2Proof.Machine

variable {s t : State}

/-- The invariant from its parts. -/
theorem inv_of_parts (hc : s.cfg.wf) (hb : ∀ b, (s.bar b).valid = true → b < s.cfg.nBars ∧ BarOk s.cfg (s.bar b).desc)
    (hf : FlowsInv s) (hh : s.fatal = false ↔ s.fatalCause = .none) (hw : WritersInv s) : Inv s where
  cfg := hc
  mem := hw.mem
  bars := hb
  confs := hf.confs
  sharing := hf.sharing
  flows := hf.flows
  owners := hf.owners
  latches := hf.latches
  driven := hf.driven
  contexts := hf.contexts
  halt := hh
  writers := hw.writers
  apart := hw.apart

/-- The trace, the mark of a refusal, the noted writes, the port signals and the inputs to come are no part of the
invariant. -/
theorem Inv.congr (h : Inv s) (hc : t.cfg = s.cfg) (hb : t.bar = s.bar) (hf : t.flow = s.flow) (hl : t.latch = s.latch)
    (ho : t.owner = s.owner) (hm : t.mem = s.mem) (hh : t.fatal = s.fatal ∧ t.fatalCause = s.fatalCause)
    (hp : t.port = s.port) : Inv t :=
  inv_of_parts (hc ▸ h.cfg) (by rw [hc, hb]; exact h.bars) (h.flowsInv.congr hc hf ho hl)
    (by rw [hh.1, hh.2]; exact h.halt)
    (h.writersInv.silent h.cfg hc hm (fun b _ => congrFun hb b) fun g b v old hq => by rw [← hp]; exact hq)

/-- Every move keeps the invariant. -/
theorem move_inv {i : Instr} (hs : Inv s) (h : Move s i t) : Inv t := by
  have hc := move_cfg h
  refine inv_of_parts (hc ▸ hs.cfg) (fun b hv => ?_) (move_flowsInv hs.flowsInv h) ?_
    (move_writersInv hs.writersInv hs.cfg h)
  · rw [hc]
    rcases move_bar h b with hb | ⟨-, hn, hok⟩
    · rw [hb] at hv ⊢; exact hs.bars b hv
    · exact ⟨hn, hok⟩
  · rcases move_halt h with ⟨hf, hk⟩ | ⟨hf, hk⟩
    · rw [hf, hk]; exact hs.halt
    · exact iff_of_false (fun h => nomatch hf.symm.trans h) hk

/-- One unit of the time base keeps the invariant. -/
theorem Inv.tick (hs : Inv s) (f : Nat) : Inv (s.setFlow f (s.flow f).tick) :=
  inv_of_parts hs.cfg hs.bars (hs.flowsInv.tick f) hs.halt
    (hs.writersInv.silent hs.cfg rfl rfl (fun _ _ => rfl) fun _ _ _ _ hq => hq)

/-- A direct write of the host that is no race keeps the invariant (rules R37, R75). -/
theorem Inv.ownerWrite {p a : Nat} {v : Byte} (hs : Inv s) (hp : s.portFree p = true)
    (hr : s.hostRace p a false = false) (hw : (s.noteWrite p a false).memWrite a v = some t) : Inv t := by
  have hm : Memory.wf t.mem := memWrite_wf hw hs.mem
  obtain ⟨-, rfl⟩ := memWrite_eq_some.1 hw
  refine inv_of_parts hs.cfg hs.bars (hs.flowsInv.congr rfl rfl rfl rfl) hs.halt
    (hs.writersInv.write hs.cfg rfl hm (fun _ _ => rfl) (fun _ _ _ _ hq => hq) fun b hb g c u old hq => ?_)
  have e : b = a := by
    by_contra e
    exact hb ((byteAt_tablePut (s.noteWrite p a false) a b v).trans (if_neg e))
  have hg : g ≠ p := fun e => by
    rcases (portFree_iff.1 hp).2 with hn | ⟨f, hn, -⟩ <;> rw [← e] at hn <;> exact nomatch hn.symm.trans hq
  rw [e]
  exact word_ne_of_midWrite (othersMidWrite_eq_false.1 (hostRace_eq_false.1 hr).1 g (hs.writers g c u old hq).1 hg) hq

/-- A start of the process meets the invariant, whatever the block was doing (rules R41, R250). -/
theorem inv_restart (hc : s.cfg.wf) (hm : Memory.wf s.mem) : Inv s.restart where
  cfg := hc
  mem := hm
  bars _ h := nomatch h
  confs _ h := absurd rfl h
  sharing _ _ _ h := absurd rfl h
  flows _ :=
    { stopped := fun _ => ⟨rfl, rfl, rfl⟩
      stepping := fun h => nomatch h
      opened := iff_of_false Bool.false_ne_true fun h => nomatch h
      held := iff_of_false Bool.false_ne_true fun h => nomatch h.2.1
      inflight := inflightOk_none rfl
      work := workOk_idle rfl }
  owners _ _ := iff_of_false (fun h => nomatch h) fun h => nomatch h.1
  latches _ h := nomatch h
  driven _ h := absurd rfl h
  contexts _ _ _ h := nomatch h.1
  halt := iff_of_true rfl rfl
  writers _ _ _ _ h := nomatch h
  apart _ _ _ _ _ _ _ _ _ h := nomatch h

/-- The parameters of the machine of reset meet their constraints. -/
theorem atReset_wf : Config.atReset.wf :=
  ⟨⟨2, by decide, by decide⟩, .inl rfl, fun _ h => absurd h List.not_mem_nil, by decide, by decide, Nat.succ_pos _,
    Nat.succ_pos _⟩

/-- Settles O49: each move keeps the parts of the invariant about the flows, the writers, the BARs and the halt, and so
do a unit of the time base, a direct write of the host and a restart; nothing else changes what the invariant says. -/
theorem stepKeepsInvariant : Obligations.StepKeepsInvariant := by
  intro s t hs h
  rcases step_next h with ⟨-, sc, d, rfl⟩ | ⟨-, -, sc, d, b, u, rfl, hc⟩
  · exact inv_restart hs.cfg hs.mem
  · have hu : Inv { s with script := sc, draws := d, bus := b } := hs.congr rfl rfl rfl rfl rfl rfl ⟨rfl, rfl⟩ rfl
    rcases hc with rfl | ⟨i, -, hm⟩ | ⟨w, rfl⟩ | ⟨f, -, -, rfl⟩ | ⟨a, c, -, rfl⟩ | ⟨p, a, v, -, hp, hr, hw⟩
    · exact hu
    · exact move_inv hu hm
    · exact hu.congr rfl rfl rfl rfl rfl rfl ⟨rfl, rfl⟩ rfl
    · exact hu.tick f
    · exact hu.congr rfl rfl rfl rfl rfl rfl ⟨rfl, rfl⟩ rfl
    · exact hu.ownerWrite hp hr hw

/-- Settles O8: reset is what a restart leaves, with the parameters of the machine of reset and no byte written. -/
theorem resetMeetsInvariant : Obligations.ResetMeetsInvariant :=
  inv_restart (s := State.reset) atReset_wf List.Pairwise.nil

end Sys2Proof.Machine
end

section
/-! `MEM` and its writers. -/

namespace Sys2Proof.Machine

variable {s t : State} {i : Instr}

/-- One bit of a byte replaced. -/
theorem setBit_getLsbD (byte : Byte) {j k : Nat} (hj : j < 8) (raw : Bool) :
    (setBit byte k raw).getLsbD j = if j = k then raw else byte.getLsbD j := by
  rcases Nat.lt_trichotomy j k with h | rfl | h
  · simp [setBit, hj, h, Nat.ne_of_lt h]
  · simp [setBit, hj]
  · simp [setBit, hj, Nat.lt_asymm h, Nat.sub_ne_zero_of_lt h, Nat.ne_of_gt h]

/-- Every move keeps the canonical form of `MEM`. -/
theorem move_memory_wf (h : Move s i t) (hm : Memory.wf s.mem) : Memory.wf t.mem := by
  rcases move_mem h with e | ⟨-, -, -, k, v, rest, -, e⟩ | ⟨b, v, old, -, -, e⟩
  · exact e ▸ hm
  · exact e ▸ tableSorted_tablePut hm _ _
  · exact writeBack_wf e hm

/-- Settles O50: the writes of the host as owner, of BWRITE and of S8 all list bytes in their places. -/
theorem stepKeepsCanonicalMemory : Obligations.StepKeepsCanonicalMemory := by
  intro s t hs h
  rcases step_next h with ⟨-, sc, d, rfl⟩ | ⟨-, -, sc, d, b, u, rfl, hc⟩
  · exact hs
  · rcases hc with rfl | ⟨i, -, hm⟩ | ⟨w, rfl⟩ | ⟨f, -, -, rfl⟩ | ⟨a, c, -, rfl⟩ | ⟨p, a, v, -, -, -, hw⟩
    · exact hs
    · exact move_memory_wf hm hs
    · exact hs
    · exact hs
    · exact hs
    · exact memWrite_wf hw hs

/-- Only a turn of a sequencer runs S8 (rules R91, R96). -/
theorem serve_run_s8 {x : Input} (h : serve x s = .run .s8DeserIn t) : x = .sequencer t.bus.flow := by
  rcases serve_run_cases h with ⟨p, w, r, q, -, -, -, -, hd, -⟩ | ⟨p, b, v, old, -, -, hd, -⟩ | ⟨f, hx, -, -, -, ht⟩ |
    ⟨f, ok, cnt, data, -, -, hd, -⟩
  · rcases decodeH_class hd with ⟨b, hb | hb | ⟨v, hb⟩⟩ | ⟨f, hf | hf | hf⟩ <;> contradiction
  · cases hd
  · rw [hx, ht]
  · have := decodeP_class hd
    simp at this

/-- Only the port's own memory event goes on with a write-back (rule R70). -/
theorem serve_run_writeBack {x : Input} {b c : Id} {v u : Bool} {old : List Byte} (h : serve x s = .run (.bwrite b v) t)
    (hq : (t.port t.bus.hport).pending = .bwrite c u old) : x = .resume t.bus.hport := by
  rcases serve_run_cases h with ⟨p, w, r, q, -, hp, -, -, -, rfl⟩ | ⟨p, b, v, old, hx, -, -, ht⟩ | ⟨f, -, -, -, hd, -⟩ |
    ⟨f, ok, cnt, data, -, -, hd, -⟩
  · rcases (portFree_iff.1 hp).2 with hn | ⟨f, hn, -⟩ <;> exact nomatch hn.symm.trans hq
  · rw [hx, ht]
  · have := decodeS_class hd
    simp at this
  · have := decodeP_class hd
    simp at this

/-- What a move that stores one byte reads as. -/
theorem byteAt_of_mem {a : Nat} {v : Byte} (h : t.mem = tablePut s.mem a v) (b : Nat) :
    t.byteAt b = if b = a then v else s.byteAt b := by
  rw [← byteAt_tablePut, State.byteAt, h]; rfl

/-- The byte a move changes, if any: the one that S8 stores, or the one a write-back has its bit in. -/
theorem move_byteAt (hs : WritersInv s) (hwf : s.cfg.wf) (h : Move s i t) {a : Nat} (ha : t.byteAt a ≠ s.byteAt a) :
    (i = .s8DeserIn ∧ s.actor.phase = .live ∧ s.actor.pc = 8#4 ∧ ∃ k v rest, s.actor.work = .store k (v :: rest) ∧
      a = s.actor.conf.iptr + k ∧ t.byteAt a = v) ∨
    (∃ b v old, i = .bwrite b v ∧ (s.port s.bus.hport).pending = .bwrite b v old ∧ a = s.addrOf b.toNat ∧
      t.byteAt a = setBit (s.byteAt a) (s.bitOf b.toNat) ((s.bar b.toNat).desc.toRaw s.cfg v)) := by
  rcases move_mem h with e | ⟨hi, hl, hj, k, v, rest, hk, e⟩ | ⟨b, v, old, hi, hq, e⟩
  · exact absurd (by rw [State.byteAt, State.byteAt, e]) ha
  · have hat := byteAt_of_mem e a
    have ea : a = s.actor.conf.iptr + k := by by_contra ea; exact ha (by rw [hat, if_neg ea])
    exact .inl ⟨hi, hl, hj, k, v, rest, hk, ea, by rw [hat, if_pos ea]⟩
  · have hat := writeBack_byteAt hwf (hs.writers _ _ _ _ hq).2.2 e a
    have ea : a = s.addrOf b.toNat := by by_contra ea; exact ha (by rw [hat, if_neg ea])
    exact .inr ⟨b, v, old, hi, hq, ea, by rw [hat, if_pos ea]⟩

/-- Settles O57: a byte changes by the store of S8 or the write-back of BWRITE that a move is, or by a direct write. -/
theorem memoryHasThreeWriters : Obligations.MemoryHasThreeWriters := by
  intro s t hs h hn a ha
  rcases step_next h with ⟨hr, -⟩ | ⟨-, -, sc, d, bus, u, hu, hc⟩
  · exact absurd hr hn
  · have huI : Inv u := hs.congr (by rw [hu]) (by rw [hu]; rfl) (by rw [hu]; rfl) (by rw [hu]; rfl) (by rw [hu]; rfl)
      (by rw [hu]) (by rw [hu]; exact ⟨rfl, rfl⟩) (by rw [hu]; rfl)
    have hbyte : u.byteAt a = s.byteAt a := by rw [hu]; rfl
    rw [← hbyte] at ha ⊢
    rcases hc with rfl | ⟨i, hr, hm⟩ | ⟨w, rfl⟩ | ⟨f, -, -, rfl⟩ | ⟨a', c, -, rfl⟩ | ⟨p, a', v, hx, -, -, hw⟩
    · exact absurd rfl ha
    · rcases move_byteAt huI.writersInv huI.cfg hm ha with
        ⟨rfl, hl, hj, k, v, rest, hk, ea, hv⟩ | ⟨b, v, old, rfl, hq, ea, hv⟩
      · have hact : u.actor = s.flow u.bus.flow := by rw [State.actor, hu]; rfl
        rw [hact] at hl hj hk ea
        exact .inr (.inr ⟨u.bus.flow, k, v, rest, serve_run_s8 hr, hl, hj, hk, ea, hv⟩)
      · have hx := serve_run_writeBack hr hq
        have hport : u.port = s.port := by rw [hu]; rfl
        have haddr : u.addrOf b.toNat = s.addrOf b.toNat := by rw [hu]; rfl
        have hbit : u.bitOf b.toNat = s.bitOf b.toNat := by rw [hu]; rfl
        rw [hport] at hq
        refine .inr (.inl ⟨u.bus.hport, b, v, old, hx, hq, ea.trans haddr, fun k hk hne => ?_⟩)
        rw [hv, setBit_getLsbD _ hk, hbit, if_neg hne]
    · exact absurd rfl ha
    · exact absurd rfl ha
    · exact absurd rfl ha
    · obtain ⟨-, rfl⟩ := memWrite_eq_some.1 hw
      have hat := byteAt_tablePut (u.noteWrite p a' false) a' a v
      have ea : a = a' := by by_contra ea; exact ha (hat.trans (if_neg ea))
      subst ea
      exact .inl ⟨p, v, hx, hat.trans (if_pos rfl)⟩

end Sys2Proof.Machine
end

section
/-! The wiring, the step register, the trace; the values after reset, a direct write, a blocked sequencer. -/

namespace Sys2Proof.Machine

variable {s t : State} {i : Instr} {f : Nat}

/-- What one transition does to the configuration, the phase and the step of a flow (rules R24, R26, R27). -/
inductive Flow.Turns (fl fl' : Flow) : Prop where
  | rests (same : fl'.conf = fl.conf ∧ fl'.phase = fl.phase ∧ fl'.pc = fl.pc)
  | goes (step : 1#4 ≤ fl.pc ∧ fl.pc ≤ 12#4)
      (goes : fl'.conf = fl.conf ∧ fl'.phase = fl.phase ∧ fl'.pc = stepAfter fl.pc)
  | starts (was : fl.phase = .constructed) (starts : fl'.conf = fl.conf ∧ fl'.phase = .live ∧ fl'.pc = 1#4)
  | constructs (was : fl.phase = .void) (constructs : fl'.phase = .constructed ∧ fl'.pc = 0#4)

/-- When no other flow changes, it is enough to look at one. -/
theorem turns_of_others {f₀ : Nat} (hf : ∀ g, g ≠ f₀ → t.flow g = s.flow g) (h : (s.flow f₀).Turns (t.flow f₀))
    (f : Nat) : (s.flow f).Turns (t.flow f) := by
  by_cases e : f = f₀
  · rw [e]; exact h
  · rw [hf f e]; exact .rests ⟨rfl, rfl, rfl⟩

/-- What a move does to a flow. -/
theorem move_turns (h : Move s i t) (f : Nat) : (s.flow f).Turns (t.flow f) := by
  cases h with
  | bwriteWrite b v old t hp hq hr hw =>
    obtain ⟨⟨m, rfl, -⟩, -⟩ := writeBytes_spec hw
    exact .rests ⟨rfl, rfl, rfl⟩
  | fnewStore g hp hg hv hc hs =>
    exact turns_of_others (fun k hk => by simp [hk]) (.constructs hv (by simp [Flow.construct])) f
  | finitIssue g hp hg hv hi =>
    exact turns_of_others (f₀ := g.toNat) (fun k hk => by simp [hk]) (.rests (by simp)) f
  | ftrigSet g hp hg hv =>
    exact turns_of_others (f₀ := g.toNat) (fun k hk => by simp [hk]) (.rests (by simp [Flow.setTrig])) f
  | topenStart hi hp ho =>
    exact turns_of_others (fun k hk => by simp [hk]) (.starts hp (by simp [Flow.start, Flow.loadTimer, State.actor])) f
  | s1Leave h | s2Pass h | s3 h | s4Pass h | s5Pass h | s6End h | s7 h | s8End _ h | s8Pass h | s9End h | s10 h
  | s11Release h | s11Pass h | s12 h =>
    obtain ⟨-, hj, -⟩ := stepTaken_flow h
    exact turns_of_others (f₀ := s.bus.flow) (fun k hk => by simp [hk])
      (.goes (by rw [hj]; decide)
        (by simp [hj, stepAfter, State.actor, Flow.setTrig, Flow.setHeld, Flow.loadTimer])) f
  | twriteS4 _ _ _ hj | twriteS5 _ _ _ hj | xacqGrant _ _ _ _ hj =>
    have hj : (s.flow s.bus.flow).pc = _ := hj
    exact turns_of_others (f₀ := s.bus.flow) (fun k hk => by simp [hk])
      (.goes (by rw [hj]; decide) (by simp [hj, stepAfter, State.actor, Flow.setHeld])) f
  | s2Ask | s4Gather | s4Issue | s5Issue | s6Begin | s8Issue | s8Store | s9Begin | lclr | lset | xrel | topenLate
  | topenHalt | twriteLate | twriteHalt | treadLate | treadHalt | treadS8 | xacqLate =>
    exact turns_of_others (f₀ := s.bus.flow) (fun k hk => by simp [hk])
      (.rests (by simp [State.actor])) f
  | _ => exact .rests ⟨rfl, rfl, rfl⟩

/-- What a transition that is no restart does to a flow. -/
theorem step_turns (h : step s = .next t) (hn : nextInput s ≠ .restart) (f : Nat) : (s.flow f).Turns (t.flow f) := by
  rcases step_next h with ⟨hr, -⟩ | ⟨-, -, sc, d, b, u, rfl, hc⟩
  · exact absurd hr hn
  · rcases hc with rfl | ⟨i, -, hm⟩ | ⟨w, rfl⟩ | ⟨g, -, -, rfl⟩ | ⟨a, c, -, rfl⟩ | ⟨p, a, v, -, -, -, hw⟩
    · exact .rests ⟨rfl, rfl, rfl⟩
    · exact move_turns hm f
    · exact .rests ⟨rfl, rfl, rfl⟩
    · exact turns_of_others (f₀ := g) (fun k hk => by rw [State.setFlow_flow, if_neg hk]; rfl)
        (.rests (by rw [State.setFlow_flow, if_pos rfl]; exact ⟨rfl, rfl, rfl⟩)) f
    · exact .rests ⟨rfl, rfl, rfl⟩
    · obtain ⟨-, rfl⟩ := memWrite_eq_some.1 hw
      exact .rests ⟨rfl, rfl, rfl⟩

/-- A transition that is no restart changes neither a parameter nor a valid BAR (rules R7, R22). -/
theorem step_wiring (h : step s = .next t) (hn : nextInput s ≠ .restart) :
    t.cfg = s.cfg ∧ ∀ b, (s.bar b).valid = true → t.bar b = s.bar b := by
  rcases step_next h with ⟨hr, -⟩ | ⟨-, -, sc, d, b, u, rfl, hc⟩
  · exact absurd hr hn
  · rcases hc with rfl | ⟨i, -, hm⟩ | ⟨w, rfl⟩ | ⟨g, -, -, rfl⟩ | ⟨a, c, -, rfl⟩ | ⟨p, a, v, -, -, -, hw⟩
    · exact ⟨rfl, fun _ _ => rfl⟩
    · exact ⟨(move_cfg hm).trans rfl, fun b hv => (move_bar_valid hm (b := b) hv).trans rfl⟩
    · exact ⟨rfl, fun _ _ => rfl⟩
    · exact ⟨rfl, fun _ _ => rfl⟩
    · exact ⟨rfl, fun _ _ => rfl⟩
    · obtain ⟨-, rfl⟩ := memWrite_eq_some.1 hw
      exact ⟨rfl, fun _ _ => rfl⟩

/-- Settles O54, by what a transition does to a flow (`step_turns`). -/
theorem wiringIsPermanent : Obligations.WiringIsPermanent := by
  intro s t h hn
  obtain ⟨hc, hb⟩ := step_wiring h hn
  refine ⟨hc, hb, fun f hv => ?_, fun f => ?_⟩
  · cases step_turns h hn f with
    | rests same => exact same.1
    | goes _ goes => exact goes.1
    | starts _ starts => exact starts.1
    | constructs was _ => exact absurd was hv
  · cases step_turns h hn f with
    | rests same => exact .inl same.2.1
    | goes _ goes => exact .inl goes.2.1
    | starts was starts => exact .inr (.inr ⟨was, starts.2.1⟩)
    | constructs was constructs => exact .inr (.inl ⟨was, constructs.1⟩)

/-- The step after a step, in numbers. -/
theorem stepAfter_toNat : ∀ k : StepCode, 1#4 ≤ k → k ≤ 12#4 →
    (1 ≤ k.toNat ∧ k.toNat ≤ 11 ∧ (stepAfter k).toNat = k.toNat + 1) ∨ (k.toNat = 12 ∧ (stepAfter k).toNat = 1) := by
  decide

/-- Settles O55, by what a transition does to a flow (`step_turns`). -/
theorem stepRegisterMoves : Obligations.StepRegisterMoves := by
  intro s t h hn f
  cases step_turns h hn f with
  | rests same => exact .inl same.2.2
  | goes step goes =>
    rw [goes.2.2]
    exact .inr ((stepAfter_toNat _ step.1 step.2).imp id .inl)
  | starts was starts => exact .inr (.inr (.inr (.inl ⟨was, starts.2.1, by rw [starts.2.2]; rfl⟩)))
  | constructs was constructs => exact .inr (.inr (.inr (.inr ⟨was, constructs.1, by rw [constructs.2]; rfl⟩)))

/-! The trace. -/

/-- A move appends no event, one, or two: a port operation that is answered and what its step or FINIT then does. -/
theorem move_trace (h : Move s i t) : ∃ es : List Event, es.length ≤ 2 ∧ t.trace = s.trace ++ es := by
  cases h with
  | bwriteWrite b v old t hp hq hr hw =>
    obtain ⟨⟨m, rfl, -⟩, -⟩ := writeBytes_spec hw
    exact ⟨[], Nat.zero_le _, (List.append_nil _).symm⟩
  | topenHalt | twriteHalt | treadHalt | twriteS5 =>
    exact ⟨[_, _], Nat.le_refl 2, List.append_assoc _ [_] [_]⟩
  | bnewHalt | fnewHalt | s1Leave | s3 | s6End | s7 | s9End | s10 | s11Release | lclr | lset | xrel | topenLate
  | topenStart | twriteLate | twriteS4 | treadLate | treadS8 | xacqGrant | xacqLate => exact ⟨[_], Nat.le_succ 1, rfl⟩
  | _ => exact ⟨[], Nat.zero_le _, (List.append_nil _).symm⟩

/-- Settles O56: only a move appends events. -/
theorem traceOnlyGrows : Obligations.TraceOnlyGrows := by
  intro s t h hn
  rcases step_next h with ⟨hr, -⟩ | ⟨-, -, sc, d, b, u, rfl, hc⟩
  · exact absurd hr hn
  · have none : ∀ u : State, u.trace = s.trace → ∃ es : List Event, es.length ≤ 2 ∧ u.trace = s.trace ++ es :=
      fun u e => ⟨[], Nat.zero_le _, by rw [e, List.append_nil]⟩
    rcases hc with rfl | ⟨i, -, hm⟩ | ⟨w, rfl⟩ | ⟨g, -, -, rfl⟩ | ⟨a, c, -, rfl⟩ | ⟨p, a, v, -, -, -, hw⟩
    · exact none _ rfl
    · obtain ⟨es, hlen, e⟩ := move_trace hm
      exact ⟨es, hlen, e⟩
    · exact none _ rfl
    · exact none _ rfl
    · exact none _ rfl
    · obtain ⟨-, rfl⟩ := memWrite_eq_some.1 hw
      exact none _ rfl

/-! Reset, a direct write, a blocked sequencer. -/

/-- Settles O7: no number is listed at reset, so each reads as its reset value. -/
theorem resetValues : Obligations.ResetValues :=
  ⟨fun _ => rfl, fun _ => ⟨rfl, rfl, rfl, rfl, rfl, rfl⟩, fun _ => rfl, fun _ => rfl, rfl, rfl, rfl, rfl, rfl⟩

/-- In a running block the input of a direct write is that write. -/
theorem step_ownerWrite {h a : Nat} {v : Byte} (hf : s.fatal = false) (hx : nextInput s = .ownerWrite h a v) :
    step s = ownerWrite h a v (takeInput s) := by
  obtain ⟨sc, d, hT⟩ := takeInput_eq s
  have hT' : (takeInput s).fatal = false := by rw [hT]; exact hf
  simp only [step, fetch, hx, serve, unlessHalted_of_running hT']

/-- What a direct write on a free port answers (rules R37, R60, R75). -/
theorem ownerWrite_of_free {h a : Nat} {v : Byte} (hp : s.portFree h = true) :
    (s.hostRace h a false = true → ownerWrite h a v s = .fault (.race a)) ∧
    (s.hostRace h a false = false → ¬ a < 2 ^ s.cfg.addrBits → ownerWrite h a v s = .fault (.noSuchAddress a)) ∧
    (s.hostRace h a false = false → a < 2 ^ s.cfg.addrBits →
      ownerWrite h a v s = .next ((s.noteWrite h a false).withMem (tablePut s.mem a v))) := by
  refine ⟨fun hr => ?_, fun hr ha => ?_, fun hr ha => ?_⟩
  · simp [ownerWrite, hp, hr]
  · have : (s.noteWrite h a false).memWrite a v = none := if_neg ha
    simp [ownerWrite, hp, hr, this]
  · have : (s.noteWrite h a false).memWrite a v = some ((s.noteWrite h a false).withMem (tablePut s.mem a v)) :=
      memWrite_eq_some.2 ⟨ha, rfl⟩
    simp [ownerWrite, hp, hr, this]

/-- Settles O46, by what a direct write on a free port answers. -/
theorem ownerWritesOneByte : Obligations.OwnerWritesOneByte := by
  intro s h a v hs hx hp
  rw [step_ownerWrite hs.1 hx]
  obtain ⟨sc, d, hT⟩ := takeInput_eq s
  rw [hT]
  obtain ⟨race, gone, wrote⟩ := ownerWrite_of_free (s := { s with script := sc, draws := d }) (a := a) (v := v) hp
  have hat := byteAt_tablePut ((State.noteWrite { s with script := sc, draws := d } h a false)) a
  refine ⟨fun hr ha => ⟨_, wrote hr ha, (hat a v).trans (if_pos rfl), ?_⟩, gone, race⟩
  exact
    { cfg := rfl, bar := fun _ _ => rfl, flow := fun _ _ => rfl, latch := fun _ _ => rfl, owner := fun _ _ => rfl
      port := fun _ _ => rfl
      byte := fun b hb => (hat b v).trans (if_neg fun e => hb (by simp [e]))
      trace := (List.append_nil _).symm
      halt := rfl, refusal := rfl, writes := rfl, bus := rfl, script := rfl, draws := rfl }

/-- A sequencer step whose conditions are not met does nothing. -/
theorem onStep_of_not_taken {code : StepCode} {w : PortOp} (hf : s.fatal = false) (h : ¬ s.stepTaken code w)
    (k : Nat → Flow → Res) : onStep code w s k = .next s := by
  unfold onStep
  rw [unlessHalted_of_running hf]
  exact if_neg h

/-- The operation of every step does nothing while its flow waits for the environment, or its context is not free. -/
theorem exec_step_blocked {k : StepCode} (h1 : 1#4 ≤ k) (h12 : k ≤ 12#4) (hf : s.fatal = false)
    (hb : s.ctxFree s.bus.flow ≠ true ∨ s.actor.inflight ≠ .none ∧ ∀ d, s.actor.inflight ≠ .delay d) :
    ∃ i, decodeS k = .ok i ∧ exec i s = .next s := by
  have busy : ∀ {code w} (m : Nat → Flow → Res), w = .none ∨ (∃ d, w = .delay d) → onStep code w s m = .next s :=
    fun m hw => onStep_of_not_taken hf (fun ⟨_, _, hi, hc⟩ => by
      rcases hb with hb | ⟨hn, hd⟩
      · exact hb hc
      · rcases hw with rfl | ⟨d, rfl⟩
        · exact hn (hi.elim id id)
        · exact hi.elim hn (hd d)) m
  rcases step_code_cases k h1 h12 with rfl | rfl | rfl | rfl | rfl | rfl | rfl | rfl | rfl | rfl | rfl | rfl
  · exact ⟨.s1Wait, rfl, show execS1Wait s = _ from busy _ (.inl rfl)⟩
  · exact ⟨.s2Acq, rfl, show execS2Acq s = _ from busy _ (.inl rfl)⟩
  · exact ⟨.s3LatchLow, rfl, show execS3LatchLow s = _ from busy _ (.inl rfl)⟩
  · exact ⟨.s4SerOut, rfl, show execS4SerOut s = _ from busy _ (.inl rfl)⟩
  · exact ⟨.s5Filler, rfl, show execS5Filler s = _ from busy _ (.inl rfl)⟩
  · exact ⟨.s6SettlePre, rfl, show execS6SettlePre s = _ from busy _ (.inr ⟨_, rfl⟩)⟩
  · exact ⟨.s7LatchHigh, rfl, show execS7LatchHigh s = _ from busy _ (.inl rfl)⟩
  · exact ⟨.s8DeserIn, rfl, show execS8DeserIn s = _ from busy _ (.inl rfl)⟩
  · exact ⟨.s9SettlePost, rfl, show execS9SettlePost s = _ from busy _ (.inr ⟨_, rfl⟩)⟩
  · exact ⟨.s10LatchLow, rfl, show execS10LatchLow s = _ from busy _ (.inl rfl)⟩
  · exact ⟨.s11Rel, rfl, show execS11Rel s = _ from busy _ (.inl rfl)⟩
  · exact ⟨.s12Loop, rfl, show execS12Loop s = _ from busy _ (.inl rfl)⟩

/-- The turn of a live flow runs the step its `pc` selects (rules R27, R96). -/
theorem step_sequencer {i : Instr} (hf : s.fatal = false) (hx : nextInput s = .sequencer f) (hn : f < s.cfg.nFlows)
    (hl : (s.flow f).phase = .live) (hd : decodeS (s.flow f).pc = .ok i) :
    step s = exec i { takeInput s with bus := { s.bus with flow := f } } := by
  obtain ⟨sc, d, hT⟩ := takeInput_eq s
  rw [hT]
  have hr : serve (.sequencer f) { s with script := sc, draws := d } =
      .run i { s with script := sc, draws := d, bus := { s.bus with flow := f } } := by
    simp only [serve, hf, Bool.false_eq_true, if_false, fetchStep]
    rw [if_pos ⟨hn, hl⟩]
    show (match decodeS (s.flow f).pc with | .ok i => _ | .error _ => _) = _
    rw [hd]
  unfold step fetch
  rw [hx, hT, hr]

/-- Settles O48: the step that `pc` selects is one whose conditions are not met (`exec_step_blocked`). -/
theorem blockedSequencerDoesNothing : Obligations.BlockedSequencerDoesNothing := by
  intro s f hf hx hn hl h1 h12 hblock
  obtain ⟨sc, d, hT⟩ := takeInput_eq s
  obtain ⟨i, hd, hi⟩ := exec_step_blocked (s := { s with script := sc, draws := d, bus := { s.bus with flow := f } })
    (k := (s.flow f).pc) h1 h12 hf (hblock.imp (fun ⟨g, hg, hne, hctx, hr⟩ hc =>
      ((ctxFree_iff.1 hc g hg).resolve_left hne).elim (absurd hctx) (absurd hr)) id)
  rw [step_sequencer hf hx hn hl hd, hT, hi]

end Sys2Proof.Machine
end

section
/-! What a transition can stop with: the faults of every operation, and that from a state of the invariant none of them
is an address outside `MEM` (rules R60, R67). -/

namespace Sys2Proof.Machine

variable {s : State} {e : Fault}

/-- A guarded operation that stops was kept from acting by the halt, or stops itself (rule R216). -/
theorem unlessHalted_fault {k : Res} (h : unlessHalted s k = .fault e) :
    e = .halted s.fatalCause s.fatalUnit ∨ k = .fault e := by
  unfold unlessHalted at h
  split at h
  · cases h; exact .inl rfl
  · exact .inr h

/-- A read answers nothing exactly at an address that does not exist. -/
theorem memRead_eq_none {a : Nat} : s.memRead a = none ↔ ¬ a < 2 ^ s.cfg.addrBits := by
  unfold State.memRead
  split <;> simp_all

/-- A write answers nothing exactly at an address that does not exist. -/
theorem memWrite_eq_none {a : Nat} {v : Byte} : s.memWrite a v = none ↔ ¬ a < 2 ^ s.cfg.addrBits := by
  unfold State.memWrite
  split <;> simp_all

/-- A host operation that stops does so by the halt, or acts on its port. -/
theorem onPort_fault {k : Res} (h : onPort s k = .fault e) : e = .halted s.fatalCause s.fatalUnit ∨ k = .fault e :=
  (unlessHalted_fault h).imp_right fun h => by
    split at h
    · exact h
    · cases h

/-- A sequencer step that stops does so by the halt, or is taken. -/
theorem onStep_fault {code : StepCode} {w : PortOp} {k : Nat → Flow → Res} (h : onStep code w s k = .fault e) :
    e = .halted s.fatalCause s.fatalUnit ∨ (s.stepTaken code w ∧ k s.bus.flow s.actor = .fault e) :=
  (unlessHalted_fault h).imp_right fun h => by
    split at h
    · exact ⟨‹_›, h⟩
    · cases h

/-- A port operation that stops does so by the halt, or takes its answer. -/
theorem onAnswer_fault {code : PortCode} {k : Nat → Flow → Res} (h : onAnswer code s k = .fault e) :
    e = .halted s.fatalCause s.fatalUnit ∨ k s.bus.flow s.actor = .fault e :=
  (unlessHalted_fault h).imp_right fun h => by
    split at h
    · exact h
    · cases h

/-- An operation reaches for a byte that does not exist (rule R60): the bit of BREAD, the granule of either event of
BWRITE, the next byte of S4 or of S8. -/
inductive Misses (s : State) : Instr → Prop where
  | bread (b : Id) : s.hasBar b → ¬ s.addrOf b.toNat < 2 ^ s.cfg.addrBits → Misses s (.bread b)
  | bwriteRead (b : Id) (v : Bool) : s.hasBar b →
      s.readBytes (granuleBase s.cfg (s.addrOf b.toNat)) s.cfg.granule = none → Misses s (.bwrite b v)
  | bwriteWrite (b : Id) (v : Bool) (old : List Byte) : (s.port s.bus.hport).pending = .bwrite b v old →
      s.writeBack b v old = none → Misses s (.bwrite b v)
  | s4Gather : s.stepTaken 4#4 .none → s.actor.conf.op = true → s.actor.gathered.length < s.actor.conf.olen →
      ¬ s.actor.conf.optr + s.actor.gathered.length < 2 ^ s.cfg.addrBits → Misses s .s4SerOut
  | s8Store (k : Nat) (v : Byte) (rest : List Byte) : s.stepTaken 8#4 .none → s.actor.conf.ip = true →
      s.actor.work = .store k (v :: rest) → ¬ s.actor.conf.iptr + k < 2 ^ s.cfg.addrBits → Misses s .s8DeserIn

/-- What an operation of `MEM` stops with when it acts: a race, or a byte that does not exist. -/
abbrev MemoryFault (s : State) (i : Instr) (e : Fault) : Prop :=
  (∃ a, e = .race a) ∨ ((∃ a, e = .noSuchAddress a) ∧ Misses s i)

/-- How BREAD stops. -/
theorem bread_fault {b : Id} (h : exec (.bread b) s = .fault e) :
    e = .halted s.fatalCause s.fatalUnit ∨ MemoryFault s (.bread b) e :=
  (onPort_fault h).imp_right fun h => by
    split at h
    · cases h
    · rename_i h1
      simp only [not_or, not_le, Bool.not_eq_false] at h1
      split at h <;> cases h
      exact .inr ⟨⟨_, rfl⟩, .bread b h1 (memRead_eq_none.1 ‹_›)⟩

/-- How BWRITE stops. -/
theorem bwrite_fault {b : Id} {v : Bool} (h : exec (.bwrite b v) s = .fault e) :
    e = .halted s.fatalCause s.fatalUnit ∨ MemoryFault s (.bwrite b v) e :=
  (unlessHalted_fault h).imp_right fun h => by
    split at h
    · unfold bwriteRead at h
      split at h
      · cases h
      · rename_i h1
        simp only [not_or, not_le, Bool.not_eq_false] at h1
        split at h
        · cases h; exact .inl ⟨_, rfl⟩
        · split at h <;> cases h
          exact .inr ⟨⟨_, rfl⟩, .bwriteRead b v h1 ‹_›⟩
    · split at h
      · split at h
        · rename_i h1
          obtain ⟨rfl, rfl, -⟩ := h1
          unfold bwriteWrite at h
          split at h
          · cases h; exact .inl ⟨_, rfl⟩
          · split at h <;> cases h
            exact .inr ⟨⟨_, rfl⟩, .bwriteWrite _ _ _ ‹_› ‹_›⟩
        · cases h
      · cases h

/-- How S4 stops. -/
theorem s4SerOut_fault (h : exec .s4SerOut s = .fault e) :
    e = .halted s.fatalCause s.fatalUnit ∨ MemoryFault s .s4SerOut e := by
  simp only [exec, execS4SerOut] at h
  refine (onStep_fault h).imp_right fun h => ?_
  obtain ⟨hs, h⟩ := h
  split at h
  · split at h
    · split at h <;> cases h
      exact .inr ⟨⟨_, rfl⟩, .s4Gather hs ‹_› ‹_› (memRead_eq_none.1 ‹_›)⟩
    · cases h
  · cases h

/-- How S8 stops. -/
theorem s8DeserIn_fault (h : exec .s8DeserIn s = .fault e) :
    e = .halted s.fatalCause s.fatalUnit ∨ MemoryFault s .s8DeserIn e := by
  simp only [exec, execS8DeserIn] at h
  refine (onStep_fault h).imp_right fun h => ?_
  obtain ⟨hs, h⟩ := h
  split at h
  · split at h
    · split at h
      · cases h; exact .inl ⟨_, rfl⟩
      · split at h <;> cases h
        exact .inr ⟨⟨_, rfl⟩, .s8Store _ _ _ hs ‹_› ‹_› ((memWrite_eq_none (s := s.setFlow _ _)).1 ‹_›)⟩
    · cases h
    · cases h
  · cases h

/-- Every way an operation stops: by the halt, in a race, or at a byte that does not exist. -/
theorem exec_fault {i : Instr} (h : exec i s = .fault e) :
    e = .halted s.fatalCause s.fatalUnit ∨ MemoryFault s i e := by
  cases i with
  | bread b => exact bread_fault h
  | bwrite b v => exact bwrite_fault h
  | s4SerOut => exact s4SerOut_fault h
  | s8DeserIn => exact s8DeserIn_fault h
  | bnew | fnew | finit | ftrig =>
    refine (onPort_fault h).imp_right fun h => ?_
    split_ifs at h <;> cases h
  | s3LatchLow | s7LatchHigh | s10LatchLow | s12Loop =>
    simp only [exec, execS3LatchLow, execS7LatchHigh, execS10LatchLow, execS12Loop] at h
    refine (onStep_fault h).imp_right fun ⟨_, h⟩ => ?_
    cases h
  | s1Wait | s2Acq | s5Filler | s11Rel =>
    simp only [exec, execS1Wait, execS2Acq, execS5Filler, execS11Rel] at h
    refine (onStep_fault h).imp_right fun ⟨_, h⟩ => ?_
    split_ifs at h
  | s6SettlePre | s9SettlePost =>
    simp only [exec, execS6SettlePre, execS9SettlePost] at h
    refine (onStep_fault h).imp_right fun ⟨_, h⟩ => ?_
    unfold holdStep at h
    split_ifs at h
  | lclr | lset | xrel =>
    simp only [exec, execLclr, execLset, execXrel] at h
    refine (onAnswer_fault h).imp_right fun h => ?_
    cases h
  | topen =>
    simp only [exec, execTopen] at h
    refine (onAnswer_fault h).imp_right fun h => ?_
    simp only [finitOpened] at h
    split_ifs at h
    cases h
  | twrite | tread | xacq =>
    simp only [exec, execTwrite, execTread, execXacq] at h
    refine (onAnswer_fault h).imp_right fun h => ?_
    split at h
    · simp only [s4Written, s5Written, s8Answered, s2Granted] at h
      split_ifs at h <;> cases h
    · cases h

/-- How an input stops that selects no operation: by the halt, at a step code that is no step, or in a direct write. -/
theorem serve_done_fault {x : Input} (h : serve x s = .done (.fault e)) :
    e = .halted s.fatalCause s.fatalUnit ∨
    (∃ f r, x = .sequencer f ∧ (s.flow f).phase = .live ∧ decodeS (s.flow f).pc = .error r) ∨
    ∃ p a v, x = .ownerWrite p a v ∧ (e = .race a ∨ e = .noSuchAddress a) := by
  cases x with
  | restart => cases h
  | host p w bar conf =>
    simp only [serve, fetchHost] at h
    split at h
    · cases h; exact .inl rfl
    · split at h
      · split at h <;> cases h
      · cases h
  | resume p =>
    simp only [serve, fetchResume] at h
    split at h
    · cases h; exact .inl rfl
    · split at h <;> cases h
  | sequencer f =>
    simp only [serve, fetchStep] at h
    split at h
    · cases h; exact .inl rfl
    · split at h
      · rename_i hl
        split at h <;> cases h
        exact .inr (.inl ⟨f, _, rfl, hl.2, ‹_›⟩)
      · cases h
  | answer f ok cnt data =>
    simp only [serve, fetchAnswer] at h
    split at h
    · cases h; exact .inl rfl
    · split at h
      · split at h <;> cases h
      · cases h
  | tick f =>
    simp only [serve, Fetched.done.injEq, tickFlow] at h
    refine (unlessHalted_fault h).imp_right fun h => ?_
    split_ifs at h
  | ownerWrite p a v =>
    simp only [serve, Fetched.done.injEq, ownerWrite] at h
    refine (unlessHalted_fault h).imp_right fun h => .inr ⟨p, a, v, rfl, ?_⟩
    split at h
    · split at h
      · cases h; exact .inl rfl
      · split at h <;> cases h
        exact .inr rfl
    · cases h
  | bufferGone p n =>
    simp only [serve, Fetched.done.injEq, bufferGone] at h
    refine (unlessHalted_fault h).imp_right fun h => ?_
    split_ifs at h
    cases h
  | sync a b =>
    simp only [serve, Fetched.done.injEq] at h
    refine (unlessHalted_fault h).imp_right fun h => ?_
    cases h

/-! Under the invariant every byte that an operation reaches for exists. -/

/-- A granule divides the address space (log 5). -/
theorem granule_dvd {c : Config} (hc : c.wf) : c.granule ∣ 2 ^ c.addrBits := by
  obtain ⟨⟨k, hk, hw⟩, hg | hg, -⟩ := hc
  · rw [hg]; exact one_dvd _
  · rw [hg, hw]; exact Nat.pow_dvd_pow 2 hk

/-- The granule of a byte that exists exists (rules R67, R70). -/
theorem granuleExists_of_lt (hc : s.cfg.wf) {a : Nat} (ha : a < 2 ^ s.cfg.addrBits) : s.granuleExists a :=
  Nat.le_of_lt_add_of_dvd (Nat.add_lt_add_right (lt_of_le_of_lt (granuleBase_le s.cfg a) ha) _)
    (Nat.dvd_add (Nat.dvd_sub_mod a) dvd_rfl) (granule_dvd hc)

/-- A granule that exists is read. -/
theorem readBytes_granule {a : Nat} (h : s.granuleExists a) :
    s.readBytes (granuleBase s.cfg a) s.cfg.granule = some (s.granuleAt a) :=
  readBytes_eq_some.2 ⟨fun i hi => by omega, rfl⟩

/-- A granule that exists is written back. -/
theorem writeBack_isSome {b : Id} (v : Bool) {old : List Byte} (h : s.granuleExists (s.addrOf b.toNat))
    (ho : old.length = s.cfg.granule) : ∃ t, s.writeBack b v old = some t :=
  writeBytes_isSome fun i hi => by
    rw [granuleWith, List.length_set, ho] at hi
    exact lt_of_lt_of_le (Nat.add_lt_add_left hi _) h

/-- The byte a BAR targets exists (rules R23, R60). -/
theorem Inv.addrOf_lt (hs : Inv s) {b : Id} (hb : s.hasBar b) : s.addrOf b.toNat < 2 ^ s.cfg.addrBits := by
  obtain ⟨-, hi, -, htop⟩ := hs.bars _ hb.2
  exact lt_of_lt_of_le (addr_in_buffer hs.cfg hi).2 htop

/-- In the middle of its stores, S8 has `ILEN` bytes stored and still to store. -/
theorem WorkOk.stored {fl : Flow} {k : Nat} {rest : List Byte} (h : WorkOk fl) (hw : fl.work = .store k rest) :
    k + rest.length = fl.conf.ilen := by
  rw [WorkOk, hw] at h
  exact h.2.2.2.2

/-- No operation reaches outside `MEM` (rules R60, R67). -/
theorem Inv.not_misses (hs : Inv s) {i : Instr} : ¬ Misses s i := fun h => by
  have conf : s.actor.phase = .live → ConfOk s.cfg s.actor.conf := fun hl =>
    (hs.confs s.bus.flow (Flow.present_of_live hl)).2
  cases h with
  | bread b hb ha => exact ha (hs.addrOf_lt hb)
  | bwriteRead b v hb hr =>
    exact nomatch (readBytes_granule (granuleExists_of_lt hs.cfg (hs.addrOf_lt hb))).symm.trans hr
  | bwriteWrite b v old hq hw =>
    obtain ⟨-, hb, rfl⟩ := hs.writers _ b v old hq
    obtain ⟨t, ht⟩ := writeBack_isSome v (granuleExists_of_lt hs.cfg (hs.addrOf_lt hb)) (granuleAt_length s _)
    exact nomatch ht.symm.trans hw
  | s4Gather h hop hlen ha =>
    obtain ⟨-, -, -, -, hout, -⟩ := conf h.1
    have := (hout hop).2.1
    omega
  | s8Store k v rest h hip hw ha =>
    obtain ⟨-, -, -, -, -, hin⟩ := conf h.1
    have hk : k + (rest.length + 1) = s.actor.conf.ilen := (hs.flows s.bus.flow).work.stored hw
    have := (hin hip).2.1
    omega

/-- A step code of the invariant selects a step (rule R101). -/
theorem FlowOk.decodeS_ok {c : Config} {fl : Flow} (h : FlowOk c fl) (hl : fl.phase = .live) {r : Illegal} :
    decodeS fl.pc ≠ .error r := by
  have steps : ∀ k : StepCode, 1#4 ≤ k → k ≤ 12#4 → (decodeS k).isOk = true := by decide
  intro he
  have := steps _ (h.stepping hl).1 (h.stepping hl).2.1
  rw [he] at this
  cases this

/-- The inputs still to come and the port signals are no part of the invariant. -/
theorem Inv.served {x : Input} {i : Instr} {t : State} (hs : Inv s) (h : serve x (takeInput s) = .run i t) : Inv t := by
  obtain ⟨sc, d, hT⟩ := takeInput_eq s
  obtain ⟨-, b, rfl⟩ := serve_run h
  rw [hT]
  exact hs.congr rfl rfl rfl rfl rfl rfl ⟨rfl, rfl⟩ rfl

/-- From a state of the invariant a transition stops by the halt, in a race, or at the address of a direct write of the
host (rules R60, R67, R101). -/
theorem Inv.step_fault (hs : Inv s) (h : step s = .fault e) :
    (∃ c u, e = .halted c u) ∨ (∃ a, e = .race a) ∨
    ∃ p a v, nextInput s = .ownerWrite p a v ∧ e = .noSuchAddress a := by
  rcases step_cases h with ⟨i, t, hr, he⟩ | hd
  · rcases exec_fault he with h | h | ⟨-, h⟩
    · exact .inl ⟨_, _, h⟩
    · exact .inr (.inl h)
    · exact absurd h (hs.served hr).not_misses
  · rcases serve_done_fault hd with h | ⟨f, r, -, hl, he⟩ | ⟨p, a, v, hx, h | h⟩
    · exact .inl ⟨_, _, h⟩
    · obtain ⟨sc, d, hT⟩ := takeInput_eq s
      rw [hT] at hl he
      exact absurd he ((hs.flows f).decodeS_ok hl)
    · exact .inr (.inl ⟨a, h⟩)
    · exact .inr (.inr ⟨p, a, v, hx, h⟩)

/-- Settles O58, by what a transition from a state of the invariant stops with (`Inv.step_fault`). -/
theorem blockStaysInsideMemory : Obligations.BlockStaysInsideMemory := by
  intro s hs
  refine ⟨fun a h => ?_, fun f h => ?_⟩
  · rcases hs.step_fault h with ⟨_, _, h⟩ | ⟨_, h⟩ | ⟨p, b, v, hx, h⟩ <;> cases h
    exact ⟨p, v, hx⟩
  · rcases hs.step_fault h with ⟨_, _, h⟩ | ⟨_, h⟩ | ⟨p, b, v, -, h⟩ <;> cases h

end Sys2Proof.Machine
end

section
/-! Frames of the updates that one agent makes, and the transition of an input that is no operation. -/

namespace Sys2Proof.Machine

variable {s : State}

/-- Writing one port's registers touches nothing else. -/
theorem kept_setPort (s : State) (h : Nat) (p : Port) : Kept { ports := [h] } s (s.setPort h p) where
  cfg := rfl; bar _ _ := rfl; flow _ _ := rfl; latch _ _ := rfl; owner _ _ := rfl
  port g hg := by rw [State.setPort_port, if_neg (by simpa using hg)]
  byte _ _ := rfl; trace := (List.append_nil _).symm; halt := rfl; refusal := rfl; writes := rfl
  bus := rfl; script := rfl; draws := rfl

/-- Writing one flow's registers touches nothing else. -/
theorem kept_setFlow (s : State) (f : Nat) (fl : Flow) : Kept { flows := [f] } s (s.setFlow f fl) where
  cfg := rfl; bar _ _ := rfl
  flow g hg := by rw [State.setFlow_flow, if_neg (by simpa using hg)]
  latch _ _ := rfl; owner _ _ := rfl; port _ _ := rfl; byte _ _ := rfl; trace := (List.append_nil _).symm
  halt := rfl; refusal := rfl; writes := rfl; bus := rfl; script := rfl; draws := rfl

/-- Storing one byte, with its flow's registers, touches nothing else. -/
theorem kept_store (s : State) (f : Nat) (fl : Flow) (a : Nat) (v : Byte) :
    Kept { flows := [f], bytes := [a] } s ((s.setFlow f fl).withMem (tablePut s.mem a v)) :=
  { kept_setFlow s f fl with
    byte := fun b hb => (byteAt_tablePut (s.setFlow f fl) a b v).trans (if_neg (by simpa using hb)) }

/-- A refusal marks itself and touches nothing else (rule R230). -/
theorem kept_refuse (s : State) (r : Reason) : Kept { refusal := some r } s (s.refuse r) where
  cfg := rfl; bar _ _ := rfl; flow _ _ := rfl; latch _ _ := rfl; owner _ _ := rfl; port _ _ := rfl; byte _ _ := rfl
  trace := (List.append_nil _).symm; halt := rfl; refusal := rfl; writes := rfl; bus := rfl; script := rfl; draws := rfl

/-- A synchronisation touches the noted writes only (rule R75). -/
theorem kept_synced (s : State) (a b : Nat) :
    Kept { writes := some (s.writes.map fun e => if e.host = a ∨ a ∈ e.seen then { e with seen := b :: e.seen } else e) }
      s (s.synced a b) where
  cfg := rfl; bar _ _ := rfl; flow _ _ := rfl; latch _ _ := rfl; owner _ _ := rfl; port _ _ := rfl; byte _ _ := rfl
  trace := (List.append_nil _).symm; halt := rfl; refusal := rfl
  writes := by simp [Written.shown]
  bus := rfl; script := rfl; draws := rfl

/-- The flow whose turn it is, after its registers are written. -/
@[simp] theorem State.setFlow_actor (s : State) (fl : Flow) : (s.setFlow s.bus.flow fl).actor = fl := by
  simp [State.actor]

/-- Taking an input notes no write. -/
@[simp] theorem takeInput_writes (s : State) : (takeInput s).writes = s.writes := by
  obtain ⟨sc, d, hT⟩ := takeInput_eq s
  rw [hT]

/-- Taking an input changes nothing of what references a byte. -/
@[simp] theorem takeInput_referenced (s : State) (p n : Nat) : (takeInput s).referenced p n = s.referenced p n := by
  obtain ⟨sc, d, hT⟩ := takeInput_eq s
  rw [hT]; rfl

/-- In a running block an input that is an event is that event. -/
theorem step_event {k : State → Res} (hf : s.fatal = false)
    (hx : ∀ u, serve (nextInput s) u = .done (unlessHalted u (k u))) : step s = k (takeInput s) := by
  obtain ⟨sc, d, hT⟩ := takeInput_eq s
  have running : (takeInput s).fatal = false := by rw [hT]; exact hf
  rw [step, fetch, hx, unlessHalted_of_running running]

end Sys2Proof.Machine
end

section
/-! The bits of a buffer, and the two memory events of BWRITE: what each does, and when it is a race (rules R62, R70, R75,
R123). -/

namespace Sys2Proof.Machine

/-- Settles O19: the place of an index is a bijection onto the places of the buffer, and a place is a byte and one of its
eight bits. -/
theorem bitIndexIsBijection : Obligations.BitIndexIsBijection := by
  refine ⟨fun c r q hc hb hl hr hq ha hk => ?_, fun c r hc hr => ?_, fun c r n k hc hn hk => ?_, fun c r hc => ?_⟩
  · have place : c.place r.len r.index = c.place r.len q.index := by
      simp only [BarRecord.addr, BarRecord.bit, hl] at ha hk ⊢
      omega
    exact place_injective hc hr (hl ▸ hq) place
  · exact ⟨(addr_in_buffer hc hr).1, (addr_in_buffer hc hr).2, bit_lt c r⟩
  · obtain ⟨i, hi, hp⟩ := place_surjective hc (len := r.len) (n := 8 * n + k) (by omega)
    refine ⟨i, hi, ?_, ?_⟩
    · show r.base + c.place r.len i / 8 = r.base + n
      omega
    · show c.place r.len i % 8 = k
      omega
  · exact ⟨by rw [BarRecord.addr, place_default hc], by rw [BarRecord.bit, place_default hc]⟩

variable {s t : State} {b : Id} {v : Bool} {old : List Byte}

/-! The two events of BWRITE. -/

/-- On a free port BWRITE is its first event. -/
theorem exec_bwrite_free (hf : s.fatal = false) (hp : s.portFree s.bus.hport = true) :
    exec (.bwrite b v) s = bwriteRead b v s := by
  show execBwrite b v s = _
  rw [execBwrite, unlessHalted_of_running hf, if_pos hp]

/-- On a port that is in the middle of it BWRITE is its second event. -/
theorem exec_bwrite_pending (hf : s.fatal = false) (hn : s.bus.hport < s.cfg.nPorts)
    (hq : (s.port s.bus.hport).pending = .bwrite b v old) : exec (.bwrite b v) s = bwriteWrite b v old s := by
  have busy : s.portFree s.bus.hport = false := by simp [State.portFree, hq]
  show execBwrite b v s = _
  simp [execBwrite, unlessHalted_of_running hf, busy, hq, hn]

/-- A BAR that exists passes the first test of BWRITE. -/
theorem State.hasBar.not_refused (hb : s.hasBar b) : ¬ (s.cfg.nBars ≤ b.toNat ∨ (s.bar b.toNat).valid = false) :=
  not_or.2 ⟨not_le.2 hb.1, ne_false_of_eq_true hb.2⟩

/-- The first event in a race (rule R75). -/
theorem bwriteRead_of_race (hb : s.hasBar b) (hr : s.hostRace s.bus.hport (s.addrOf b.toNat) true = true) :
    bwriteRead b v s = .fault (.race (s.addrOf b.toNat)) := by
  rw [bwriteRead, if_neg (State.hasBar.not_refused hb), if_pos hr]

/-- The first event in no race reads the granule (rule R70). -/
theorem bwriteRead_of_granule (hb : s.hasBar b) (hr : s.hostRace s.bus.hport (s.addrOf b.toNat) true = false)
    (hg : s.granuleExists (s.addrOf b.toNat)) :
    bwriteRead b v s = .next (s.setPort s.bus.hport
      { s.port s.bus.hport with pending := .bwrite b v (s.granuleAt (s.addrOf b.toNat)) }) := by
  rw [bwriteRead, if_neg (State.hasBar.not_refused hb), hr, readBytes_granule hg]; rfl

/-- The first event on a BAR that does not exist is refused. -/
theorem bwriteRead_of_no_bar (hb : ¬ s.hasBar b) : bwriteRead b v s = .next (s.refuse .badId) :=
  if_pos ((not_and_or.1 hb).imp not_lt.1 Bool.eq_false_of_not_eq_true)

/-- The second event in a race (rule R75). -/
theorem bwriteWrite_of_race (hr : s.hostRace s.bus.hport (s.addrOf b.toNat) true = true) :
    bwriteWrite b v old s = .fault (.race (s.addrOf b.toNat)) := if_pos hr

/-- The second event in no race is the write-back (rule R70). -/
theorem bwriteWrite_of_writeBack (hr : s.hostRace s.bus.hport (s.addrOf b.toNat) true = false)
    (hw : s.writeBack b v old = some t) : bwriteWrite b v old s = .next t := by
  rw [State.writeBack] at hw
  rw [bwriteWrite, hr, hw]; rfl

/-- Settles O14, by what the first event of BWRITE answers on a free port. -/
theorem bwriteReadsGranule : Obligations.BwriteReadsGranule := by
  intro s b v hs
  obtain ⟨⟨hf, -⟩, hp⟩ := hs
  rw [exec_bwrite_free hf hp]
  refine ⟨fun hb hr hg => ⟨_, bwriteRead_of_granule hb hr hg, ?_, ?_, kept_setPort ..⟩,
    fun hb => ⟨_, bwriteRead_of_no_bar hb, kept_refuse ..⟩⟩
  all_goals rw [State.setPort_port, if_pos rfl]

/-- The granule after a write-back: the bytes that were read, the bit of the BAR replaced (rule R123). -/
theorem writeBack_granule (ho : old.length = s.cfg.granule) (h : s.writeBack b v old = some t) {i : Nat}
    (hi : i < s.cfg.granule) :
    t.byteAt (granuleBase s.cfg (s.addrOf b.toNat) + i) =
      if granuleBase s.cfg (s.addrOf b.toNat) + i = s.addrOf b.toNat then
        setBit (old.getD i 0#8) (s.bitOf b.toNat) ((s.bar b.toNat).desc.toRaw s.cfg v)
      else old.getD i 0#8 := by
  have hle := granuleBase_le s.cfg (s.addrOf b.toNat)
  rw [(writeBytes_spec h).2, granuleWith, List.length_set, ho, if_pos (by omega), Nat.add_sub_cancel_left]
  by_cases e : granuleBase s.cfg (s.addrOf b.toNat) + i = s.addrOf b.toNat
  · have hoff : s.addrOf b.toNat - granuleBase s.cfg (s.addrOf b.toNat) = i := by omega
    rw [if_pos e, hoff, List.getD_eq_getElem?_getD, List.getElem?_set_self (by omega), Option.getD_some]
  · rw [if_neg e, List.getD_eq_getElem?_getD, List.getElem?_set_ne (by omega), ← List.getD_eq_getElem?_getD]

/-- A write-back touches its port, its granule and the noted writes. -/
theorem writeBack_kept (ho : old.length = s.cfg.granule) (h : s.writeBack b v old = some t) :
    Kept { ports := [s.bus.hport], bytes := List.range' (granuleBase s.cfg (s.addrOf b.toNat)) s.cfg.granule,
           writes := some (s.noteWrite s.bus.hport (s.addrOf b.toNat) true).writes } s t := by
  have hport := writeBack_port h
  obtain ⟨⟨m, rfl, -⟩, hbyte⟩ := writeBytes_spec h
  exact
    { cfg := rfl, bar := fun _ _ => rfl, flow := fun _ _ => rfl, latch := fun _ _ => rfl, owner := fun _ _ => rfl
      port := fun g hg => by rw [hport, if_neg (by simpa using hg)]
      byte := fun a ha => by
        rw [hbyte, granuleWith, List.length_set, ho, if_neg (by simpa using ha)]; rfl
      trace := (List.append_nil _).symm
      halt := rfl, refusal := rfl, writes := rfl, bus := rfl, script := rfl, draws := rfl }

/-- Settles O15: the write-back answers, and replaces the BAR's bit among those of the granule (`writeBack_granule`,
`setBit_getLsbD`). -/
theorem bwriteWritesGranuleBack : Obligations.BwriteWritesGranuleBack := by
  intro s b v old hs hn hq ho _ hr hg
  obtain ⟨t, hw⟩ := writeBack_isSome v hg ho
  have hport := writeBack_port hw s.bus.hport
  rw [if_pos rfl] at hport
  refine ⟨t, (exec_bwrite_pending hs.1 hn hq).trans (bwriteWrite_of_writeBack hr hw), by rw [hport], by rw [hport],
    fun i hi k hk => ?_, writeBack_kept ho hw⟩
  refine (congrArg (BitVec.getLsbD · k) (writeBack_granule ho hw hi)).trans ?_
  by_cases e : granuleBase s.cfg (s.addrOf b.toNat) + i = s.addrOf b.toNat
  · rw [if_pos e, setBit_getLsbD _ hk]
    by_cases ek : k = s.bitOf b.toNat
    · exact (if_pos ek).trans (if_pos ⟨e, ek⟩).symm
    · exact (if_neg ek).trans (if_neg fun h => ek h.2).symm
  · rw [if_neg e]
    exact (if_neg fun h => e h.1).symm

/-! Races. -/

/-- When another port is in a write-back over word `w`. -/
theorem othersMidWrite_iff {w h : Nat} :
    s.othersMidWrite w h = true ↔ ∃ g < s.cfg.nPorts, g ≠ h ∧ s.midWrite w g = true := by
  simp [State.othersMidWrite]

/-- When some port is in a write-back over word `w`. -/
theorem anyMidWrite_iff {w : Nat} : s.anyMidWrite w = true ↔ ∃ g < s.cfg.nPorts, s.midWrite w g = true := by
  simp [State.anyMidWrite]

/-- When a live flow is in step 8 over word `w`. -/
theorem sampling_iff {w : Nat} :
    s.sampling w = true ↔ ∃ f < s.cfg.nFlows, (s.flow f).phase = .live ∧ (s.flow f).pc = 8#4 ∧
      (s.flow f).conf.ip = true ∧ wordMeets s.cfg w (s.flow f).conf.iptr (s.flow f).conf.ilen := by
  simp only [State.sampling, List.any_eq_true, List.mem_range, decide_eq_true_eq]

/-- When a write event of a host is a race: it meets a write-back, meets a step 8, or comes unordered. -/
theorem hostRace_iff {h a : Nat} {rmw : Bool} :
    s.hostRace h a rmw = true ↔ s.othersMidWrite (wordOf s.cfg a) h = true ∨ s.sampling (wordOf s.cfg a) = true ∨
      s.unordered (wordOf s.cfg a) h rmw = true := by
  simp [State.hostRace, or_assoc]

/-- Settles O16: each of the three meetings is one of the parts of the race test (`hostRace_iff`), which both events of
BWRITE make first; S8 makes its own. -/
theorem bwriteRaceIsFault : Obligations.BwriteRaceIsFault := by
  refine ⟨fun s b v hs hb hport hmeet => ?_, fun s k v rest hs hip hw hmeet => ?_, fun s a c hs hx => ?_⟩
  · have race : s.hostRace s.bus.hport (s.addrOf b.toNat) true = true := by
      rw [hostRace_iff, othersMidWrite_iff, sampling_iff, unordered_iff]
      refine hmeet.imp (fun ⟨h, c, u, old, hn, hne, hq, hw⟩ => ?_) (.imp id fun ⟨e, he, hw, hh, hseen⟩ => ?_)
      · exact ⟨h, hn, hne, midWrite_iff.2 ⟨c, u, old, hq, hw⟩⟩
      · exact ⟨e, he, hw, hh, .inr rfl, hseen⟩
    rcases hport with hp | ⟨hn, old, hq⟩
    · rw [exec_bwrite_free hs.1 hp, bwriteRead_of_race hb race]
    · rw [exec_bwrite_pending hs.1 hn hq, bwriteWrite_of_race race]
  · obtain ⟨h, c, u, old, hn, hq, hword⟩ := hmeet
    have race : s.anyMidWrite (wordOf s.cfg (s.actor.conf.iptr + k)) = true :=
      anyMidWrite_iff.2 ⟨h, hn, midWrite_iff.2 ⟨c, u, old, hq, hword⟩⟩
    rw [exec_s8DeserIn_taken hs.1.1 (stepTaken_of_ready _ hs), if_pos hip, hw]
    exact if_pos race
  · have sync : step s = .next ((takeInput s).synced a c) := step_event hs.1 fun u => by rw [hx]; rfl
    exact ⟨_, sync, fun e he => synced_seen he, takeInput_writes s ▸ kept_synced (takeInput s) a c⟩

end Sys2Proof.Machine
end

section
/-! The bytes that S4 reads and S8 stores, and the buffers the host may not free (rules R61, R77, R82, R164, R168). -/

namespace Sys2Proof.Machine

variable {s : State}

/-- Settles O31, by what S4 answers when it is taken: one clause for each of its branches. -/
theorem s4SerializesOutput : Obligations.S4SerializesOutput := by
  intro s hs
  rw [exec_s4SerOut_taken hs.1.1 (stepTaken_of_ready _ hs)]
  refine ⟨fun hop hlt htop => ?_, fun hop hlen => ?_, fun hop => ?_⟩
  · have read : s.memRead (s.actor.conf.optr + s.actor.gathered.length) =
        some (s.byteAt (s.actor.conf.optr + s.actor.gathered.length)) := memRead_eq_some.2 ⟨by omega, rfl⟩
    rw [if_pos hop, if_pos hlt, read]
    exact ⟨_, rfl, s.setFlow_actor _, kept_setFlow ..⟩
  · rw [if_pos hop, if_neg (by omega)]
    exact ⟨_, rfl, s.setFlow_actor _, kept_setFlow ..⟩
  · rw [if_neg (by simp [hop])]
    exact ⟨_, rfl, s.setFlow_actor _, kept_setFlow ..⟩

/-- Settles O37, by what S8 answers when it is taken: one clause for each of its branches that is no race. -/
theorem s8DeserializesInput : Obligations.S8DeserializesInput := by
  intro s hs
  rw [exec_s8DeserIn_taken hs.1.1 (stepTaken_of_ready _ hs)]
  refine ⟨fun hip => ?_, fun hip hw => ?_, fun k v rest hip hw hm ha => ?_, fun k hip hw => ?_⟩
  · rw [if_neg (by simp [hip])]
    exact ⟨_, rfl, s.setFlow_actor _, kept_setFlow ..⟩
  · rw [if_pos hip, hw]
    exact ⟨_, rfl, s.setFlow_actor _, kept_setFlow ..⟩
  · have store : (s.setFlow s.bus.flow { s.actor with work := .store (k + 1) rest }).memWrite (s.actor.conf.iptr + k) v =
        some _ := memWrite_eq_some.2 ⟨ha, rfl⟩
    rw [if_pos hip, hw]
    simp only [hm, store]
    exact ⟨_, rfl, (byteAt_tablePut (s.setFlow _ _) _ _ v).trans (if_pos rfl), s.setFlow_actor _, kept_store ..⟩
  · rw [if_pos hip, hw]
    exact ⟨_, rfl, s.setFlow_actor _, kept_setFlow ..⟩

/-! Freeing a buffer. -/

/-- Two ranges meet when some address is in both. -/
theorem rangesMeet_iff {p n q m : Nat} : rangesMeet p n q m ↔ ∃ a, p ≤ a ∧ a < p + n ∧ q ≤ a ∧ a < q + m := by
  constructor
  · rintro ⟨hn, hm, h1, h2⟩
    exact ⟨max p q, by omega⟩
  · rintro ⟨a, h⟩
    exact ⟨by omega, by omega, by omega, by omega⟩

/-- What references one of the `n` bytes at `p`: a valid BAR or a flow that is not VOID (rule R82). -/
theorem referenced_iff {p n : Nat} :
    s.referenced p n = true ↔
      (∃ b < s.cfg.nBars, (s.bar b).valid = true ∧ rangesMeet p n (s.bar b).desc.base (s.bar b).desc.len) ∨
      (∃ f < s.cfg.nFlows, (s.flow f).phase ≠ .void ∧ (s.flow f).conf.uses p n) := by
  simp only [State.referenced, Bool.or_eq_true, List.any_eq_true, List.mem_range, decide_eq_true_eq]

/-- Settles O47: what the test of the input finds is a byte that both ranges have (`rangesMeet_iff`). -/
theorem bufferInUseMustStay : Obligations.BufferInUseMustStay := by
  intro s p n hs hx shares used
  have uses : s.referenced p n = true ↔ used := by
    simp only [referenced_iff, FlowRecord.uses, rangesMeet_iff]; rfl
  have event : step s = bufferGone p n (takeInput s) := step_event hs.1 fun u => by rw [hx]; rfl
  rw [event, bufferGone, takeInput_referenced]
  exact ⟨fun hu => ⟨_, if_pos (uses.2 hu), kept_refuse ..⟩, fun hu => if_neg (uses.not.2 hu)⟩

end Sys2Proof.Machine
end

section
/-! The encodings: what each decoder accepts and gives, and that decoding and encoding agree (rules R91, R92, R96 to
R98, R100, R101, R103). -/

namespace Sys2Proof

variable {w : HostWord} {c : StepCode} {p : PortCode} {i : Instr}

/-- A command word whose `ZERO` is zero is made of its fields (rule R103). -/
theorem hostWord_of_fields (hz : hostZero w = 0#15) : hostWord (hostOp w) (hostId w) (hostV w) = w := by
  apply BitVec.eq_of_getLsbD_eq
  intro k hk
  have zeros : ∀ j < 15, w.getLsbD (1 + j) = false := fun j hj => by
    simpa [hostZero, hj] using congrArg (·.getLsbD j) hz
  rw [hostWord_bit]
  split_ifs with h0 h16 h28
  · rw [h0, hostV]
  · rw [← zeros (k - 1) (by omega), Nat.add_sub_cancel' (by omega)]
  · simp [hostId, show k - 16 < 12 by omega, show 16 + (k - 16) = k by omega]
  · simp [hostOp, show k - 28 < 4 by omega, show 28 + (k - 28) = k by omega]

/-- An operation whose `V` must be zero is given when it is. -/
theorem needsZeroV_eq_ok_iff {v : Bool} {j : Instr} : needsZeroV v j = .ok i ↔ v = false ∧ i = j := by
  cases v <;> simp [needsZeroV, eq_comm]

/-- What the decoder of command words gives, field by field (rules R92, R98, R100). -/
theorem decodeH_eq_ok_iff : decodeH w = .ok i ↔ hostZero w = 0#15 ∧
    ((hostOp w = 1#4 ∧ hostV w = false ∧ i = .bnew (hostId w)) ∨
      (hostOp w = 2#4 ∧ hostV w = false ∧ i = .bread (hostId w)) ∨
      (hostOp w = 3#4 ∧ i = .bwrite (hostId w) (hostV w)) ∨
      (hostOp w = 4#4 ∧ hostV w = false ∧ i = .fnew (hostId w)) ∨
      (hostOp w = 5#4 ∧ hostV w = false ∧ i = .finit (hostId w)) ∨
      (hostOp w = 6#4 ∧ hostV w = false ∧ i = .ftrig (hostId w))) := by
  by_cases hz : hostZero w = 0#15
  · rw [decodeH, if_neg (not_not.2 hz)]
    split_ifs <;> simp [*, needsZeroV_eq_ok_iff, @eq_comm _ i]
  · simp [decodeH, hz]

/-- A command word that decodes is the encoding of what it decodes to. -/
theorem encode_of_decodeH (h : decodeH w = .ok i) : encode i = .h w := by
  obtain ⟨hz, h⟩ := decodeH_eq_ok_iff.1 h
  have fields := hostWord_of_fields hz
  rcases h with ⟨op, v, rfl⟩ | ⟨op, v, rfl⟩ | ⟨op, rfl⟩ | ⟨op, v, rfl⟩ | ⟨op, v, rfl⟩ | ⟨op, v, rfl⟩ <;>
    simpa [encode, *] using fields

/-- A step code that decodes is the encoding of what it decodes to: each of the 16 (rule R96). -/
theorem encode_of_decodeS (h : decodeS c = .ok i) : encode i = .s c := by
  have table : ∀ c : StepCode, ∀ j ∈ (decodeS c).toOption, encode j = .s c := by decide
  exact table c i (by rw [h]; rfl)

/-- A port code that decodes is the encoding of what it decodes to: each of the 8 (rule R97). -/
theorem encode_of_decodeP (h : decodeP p = .ok i) : encode i = .p p := by
  have table : ∀ p : PortCode, ∀ j ∈ (decodeP p).toOption, encode j = .p p := by decide
  exact table p i (by rw [h]; rfl)

/-- A code word of any format that decodes is the encoding of what it decodes to. -/
theorem encode_of_decode {k : Code} (h : decode k = .ok i) : encode i = k := by
  cases k with
  | h w => exact encode_of_decodeH h
  | s c => exact encode_of_decodeS h
  | p p => exact encode_of_decodeP h

/-- The encoding of an operation decodes as the operation, with every operand. -/
theorem decode_encode (i : Instr) : decode (encode i) = .ok i := by
  cases i with
  | bnew b | bread b | bwrite b v | fnew f | finit f | ftrig f =>
    exact decodeH_eq_ok_iff.2 (by simp [hostWord_fields])
  | _ => rfl

/-- Settles O1: the two directions are `decode_encode` and `encode_of_decode`. -/
theorem decodeEncodeAgree : Obligations.DecodeEncodeAgree := ⟨decode_encode, fun _ _ => encode_of_decode⟩

/-! The fields of a command word as numbers. -/

/-- `ZERO` is zero: bits 15:1 of the number. -/
theorem hostZero_eq_zero_iff : hostZero w = 0#15 ↔ w.toNat / 2 % 2 ^ 15 = 0 := by
  simp [hostZero, BitVec.toNat_eq, Nat.shiftRight_eq_div_pow]

/-- `OP` is what stands above bit 27. -/
theorem hostOp_toNat (w : HostWord) : (hostOp w).toNat = w.toNat / 2 ^ 28 := by
  rw [hostOp, BitVec.extractLsb'_toNat, Nat.shiftRight_eq_div_pow, Nat.mod_eq_of_lt (by omega)]

/-- `V` is set in the odd numbers. -/
theorem hostV_eq_true_iff : hostV w = true ↔ w.toNat % 2 = 1 := by
  simp [hostV, BitVec.getLsbD]

/-- Which command words are operations, by their fields: `OP` is one of the six, and `V` is set only in BWRITE's. -/
theorem decodeH_legal_iff : (∃ i, decodeH w = .ok i) ↔
    hostZero w = 0#15 ∧ 1 ≤ (hostOp w).toNat ∧ (hostOp w).toNat ≤ 6 ∧ (hostV w = true → (hostOp w).toNat = 3) := by
  have codes : ∀ (op : BitVec 4) (v : Bool),
      (op = 1#4 ∧ v = false ∨ op = 2#4 ∧ v = false ∨ op = 3#4 ∨ op = 4#4 ∧ v = false ∨ op = 5#4 ∧ v = false ∨
        op = 6#4 ∧ v = false) ↔ 1 ≤ op.toNat ∧ op.toNat ≤ 6 ∧ (v = true → op.toNat = 3) := by decide
  simp only [← codes, decodeH_eq_ok_iff, exists_and_left, exists_or, exists_eq, and_true]

/-- Settles O2: which words are operations by their fields, and the fields as numbers. -/
theorem hostWordLegality : Obligations.HostWordLegality := fun w => by
  rw [decodeH_legal_iff, hostZero_eq_zero_iff, hostOp_toNat, hostV_eq_true_iff]

/-- Settles O3: the legal words are encodings (`decode_encode`), the others are evaluated. -/
theorem specWordsDecode : Obligations.SpecWordsDecode :=
  ⟨decode_encode (.bwrite 2#12 true), decode_encode (.bwrite 2#12 false), decode_encode (.bread 5#12),
    decode_encode (.bnew 0#12), decode_encode (.fnew 1#12), decode_encode (.finit 0#12), decode_encode (.ftrig 3#12),
    by decide, by decide, by decide, by decide, decode_encode .s4SerOut, decode_encode .s12Loop, decode_encode .xacq⟩

/-- A decoder's answer is an operation when it is no error. -/
theorem exists_ok_iff_isOk {r : Except Illegal Instr} : (∃ i, r = .ok i) ↔ r.isOk = true := by
  cases r <;> simp [Except.isOk, Except.toBool]

/-- Settles O4, by the answer of the decoder to each of the 16 step codes and the 8 port codes. -/
theorem unusedCodesSelectNothing : Obligations.UnusedCodesSelectNothing := by
  have steps : ∀ c : StepCode, (decodeS c).isOk = true ↔ 1 ≤ c.toNat ∧ c.toNat ≤ 12 := by decide
  have ports : ∀ p : PortCode, (decodeP p).isOk = true ↔ p ≠ 0#3 := by decide
  exact ⟨fun c => exists_ok_iff_isOk.trans (steps c), fun p => exists_ok_iff_isOk.trans (ports p)⟩

end Sys2Proof
end

section
/-! What one transition runs: the operation that the next input selects, whichever of the four places it comes from
(rules R70, R91, R95 to R97), and nothing for a command word that names none (rules R100, R230). -/

namespace Sys2Proof.Machine

variable {s : State} {i : Instr}

/-! Taking an input leaves what a fetch reads as it was. -/

@[simp] theorem takeInput_cfg (s : State) : (takeInput s).cfg = s.cfg := by
  obtain ⟨sc, d, hT⟩ := takeInput_eq s; rw [hT]
@[simp] theorem takeInput_fatal (s : State) : (takeInput s).fatal = s.fatal := by
  obtain ⟨sc, d, hT⟩ := takeInput_eq s; rw [hT]
@[simp] theorem takeInput_bus (s : State) : (takeInput s).bus = s.bus := by
  obtain ⟨sc, d, hT⟩ := takeInput_eq s; rw [hT]
@[simp] theorem takeInput_flow (s : State) (f : Nat) : (takeInput s).flow f = s.flow f := by
  obtain ⟨sc, d, hT⟩ := takeInput_eq s; rw [hT]; rfl
@[simp] theorem takeInput_port (s : State) (h : Nat) : (takeInput s).port h = s.port h := by
  obtain ⟨sc, d, hT⟩ := takeInput_eq s; rw [hT]; rfl
@[simp] theorem takeInput_portFree (s : State) (h : Nat) : (takeInput s).portFree h = s.portFree h := by
  obtain ⟨sc, d, hT⟩ := takeInput_eq s; rw [hT]; rfl

/-- The first input that is written down is the next, and is taken from the list (log 4). -/
theorem nextInput_of_script {x : Input} {rest : List Input} (h : s.script = x :: rest) :
    nextInput s = x ∧ takeInput s = { s with script := rest } := by
  simp [nextInput, takeInput, h]

/-- With none written down the next input is drawn, and counted (log 4). -/
theorem nextInput_of_no_script (h : s.script = []) :
    nextInput s = Config.freeInput s.draws ∧ takeInput s = { s with draws := s.draws + 1 } := by
  simp [nextInput, takeInput, h]

/-- A command word that a free port accepts runs the operation it decodes to (rules R92, R95). -/
theorem step_host {h : Nat} {w : HostWord} {r : BarRecord} {q : FlowRecord} (hf : s.fatal = false)
    (hx : nextInput s = .host h w r q) (hp : s.portFree h = true) (hr : r.fits s.cfg) (hq : q.fits s.cfg)
    (hd : decodeH w = .ok i) :
    step s = exec i { takeInput s with bus := { s.bus with hport := h, bar := r, conf := q } } := by
  simp [step, fetch, hx, serve, hf, fetchHost, hp, eq_true hr, eq_true hq, hd]

/-- A command word that a free port accepts and that decodes to nothing is refused (rule R100). -/
theorem step_host_illegal {h : Nat} {w : HostWord} {r : BarRecord} {q : FlowRecord} {e : Illegal} (hf : s.fatal = false)
    (hx : nextInput s = .host h w r q) (hp : s.portFree h = true) (hr : r.fits s.cfg) (hq : q.fits s.cfg)
    (hd : decodeH w = .error e) : step s = .next ((takeInput s).refuse .illegalWord) := by
  simp [step, fetch, hx, serve, hf, fetchHost, hp, eq_true hr, eq_true hq, hd, refuse]

/-- An answer runs the port operation its flow has in flight (rules R33, R97). -/
theorem step_answer {f : Nat} {ok : Bool} {cnt : Int} {data : List Byte} (hf : s.fatal = false)
    (hx : nextInput s = .answer f ok cnt data) (hn : f < s.cfg.nFlows) (hd : decodeP (s.flow f).inflight.code = .ok i) :
    step s = exec i { takeInput s with bus := { s.bus with flow := f, ok := ok, cnt := cnt, data := data } } := by
  simp [step, fetch, hx, serve, hf, fetchAnswer, hn, hd]

/-- A port in the middle of a BWRITE goes on with it (rule R70). -/
theorem step_resume {h : Nat} {b : Id} {v : Bool} {old : List Byte} (hf : s.fatal = false)
    (hx : nextInput s = .resume h) (hp : (s.port h).pending = .bwrite b v old) :
    step s = exec (.bwrite b v) { takeInput s with bus := { s.bus with hport := h } } := by
  simp [step, fetch, hx, serve, hf, fetchResume, hp]

/-- Settles O5: one lemma for each way an input is taken and for each of the four places an operation comes from. -/
theorem stepRunsDecodedInstruction : Obligations.StepRunsDecodedInstruction :=
  ⟨fun _ _ _ => nextInput_of_script, fun _ => nextInput_of_no_script,
    fun _ _ _ _ _ _ => step_host, fun _ _ _ => step_sequencer, fun _ _ _ _ _ _ => step_answer,
    fun _ _ _ _ _ => step_resume⟩

/-- Settles O6: the transition is the refusal (`step_host_illegal`), and a refusal marks itself only (`kept_refuse`). -/
theorem illegalWordIsRefused : Obligations.IllegalWordIsRefused := fun s _ _ _ _ _ hs hx hp hr hq hd =>
  ⟨_, step_host_illegal hs.1 hx hp hr hq hd, kept_refuse (takeInput s) _⟩

end Sys2Proof.Machine
end

section
/-! The BAR operations: what BNEW and BREAD answer on a free port, a whole BWRITE, and the read after it (rules R121 to
R125). -/

namespace Sys2Proof.Machine

variable {s t : State} {b : Id} {v : Bool}

/-! BNEW (rule R121). -/

/-- Writing one BAR touches nothing else. -/
theorem kept_setBar (s : State) (b : Nat) (r : Bar) : Kept { bars := [b] } s (s.setBar b r) where
  cfg := rfl
  bar k hk := by rw [State.setBar_bar, if_neg (by simpa using hk)]
  flow _ _ := rfl; latch _ _ := rfl; owner _ _ := rfl; port _ _ := rfl; byte _ _ := rfl
  trace := (List.append_nil _).symm; halt := rfl; refusal := rfl; writes := rfl; bus := rfl; script := rfl; draws := rfl

/-- A fatal halt touches the halt registers and the trace only (rule R216). -/
theorem kept_raiseFatal (s : State) (e : Cause) (u : Nat) :
    Kept { events := [.fatal e u], halt := some (e, u) } s (s.raiseFatal e u) where
  cfg := rfl; bar _ _ := rfl; flow _ _ := rfl; latch _ _ := rfl; owner _ _ := rfl; port _ _ := rfl; byte _ _ := rfl
  trace := rfl; halt := rfl; refusal := rfl; writes := rfl; bus := rfl; script := rfl; draws := rfl

/-- BNEW on a free port: the tests of its pseudocode in their order (rule R121). -/
theorem exec_bnew_free (hf : s.fatal = false) (hp : s.portFree s.bus.hport = true) :
    exec (.bnew b) s =
      if s.cfg.nBars ≤ b.toNat ∨ (s.bar b.toNat).valid = true then .next (s.refuse .badId)
      else if s.bus.bar.base % s.cfg.wordBytes ≠ 0 then .next (s.refuse .barBaseUnaligned)
      else if 2 ^ s.cfg.addrBits < s.bus.bar.base + s.bus.bar.len then .next (s.refuse .bufferWraps)
      else if ¬ s.bus.bar.index < 8 * s.bus.bar.len then .next (s.raiseFatal .barIndexRange b.toNat)
      else .next (s.setBar b.toNat ⟨true, s.bus.bar⟩) :=
  onPort_of_free hf hp _

/-- Settles O11: a record that the invariant of a BAR admits passes every test of BNEW. -/
theorem bnewStoresDescriptor : Obligations.BnewStoresDescriptor := by
  intro s b ⟨⟨hf, _⟩, hp⟩ hb hv ⟨hi, ha, htop⟩
  refine ⟨s.setBar b.toNat ⟨true, s.bus.bar⟩, ?_, by rw [State.setBar_bar, if_pos rfl], kept_setBar ..⟩
  rw [exec_bnew_free hf hp, if_neg (by simp [hb, hv]), if_neg (not_not.2 ha), if_neg (not_lt.2 htop),
    if_neg (not_not.2 hi)]

/-- Settles O12: the first test of BNEW that a record fails says what is answered. -/
theorem bnewRefusalsThenRangeHalt : Obligations.BnewRefusalsThenRangeHalt := by
  intro s b ⟨⟨hf, _⟩, hp⟩
  simp only [exec_bnew_free hf hp, not_lt, gt_iff_lt, ge_iff_le]
  split_ifs with hid hbase hwrap
  · exact ⟨_, rfl, kept_refuse ..⟩
  · exact ⟨_, rfl, kept_refuse ..⟩
  · exact ⟨_, rfl, kept_refuse ..⟩
  · exact fun _ => ⟨_, rfl, Bool.eq_false_of_not_eq_true fun hv => hid (.inr hv), kept_raiseFatal ..⟩
  · exact fun hi => absurd hi ‹_›

/-! BREAD (rule R122). -/

/-- BREAD of a BAR that exists, over a byte that exists. -/
theorem exec_bread_of_hasBar (hf : s.fatal = false) (hp : s.portFree s.bus.hport = true) (hb : s.hasBar b)
    (ha : s.addrOf b.toNat < 2 ^ s.cfg.addrBits) :
    exec (.bread b) s = .next (s.setPort s.bus.hport
      { s.port s.bus.hport with
        result := (s.bar b.toNat).desc.toLogical ((s.byteAt (s.addrOf b.toNat)).getLsbD (s.bitOf b.toNat)) }) := by
  refine (onPort_of_free hf hp _).trans ?_
  rw [if_neg (State.hasBar.not_refused hb), memRead_eq_some.2 ⟨ha, rfl⟩]

/-- BREAD of a BAR that does not exist is refused. -/
theorem exec_bread_of_no_bar (hf : s.fatal = false) (hp : s.portFree s.bus.hport = true) (hb : ¬ s.hasBar b) :
    exec (.bread b) s = .next (s.refuse .badId) :=
  (onPort_of_free hf hp _).trans (if_pos ((not_and_or.1 hb).imp not_lt.1 Bool.eq_false_of_not_eq_true))

/-- Settles O13: the byte of a BAR in range exists, and BREAD answers its bit. -/
theorem breadReturnsTargetBit : Obligations.BreadReturnsTargetBit := by
  intro s b ⟨⟨hf, _⟩, hp⟩
  refine ⟨fun hb hc ⟨hi, _, htop⟩ => ?_, fun hb => ⟨_, exec_bread_of_no_bar hf hp hb, kept_refuse ..⟩⟩
  have ha : s.addrOf b.toNat < 2 ^ s.cfg.addrBits := lt_of_lt_of_le (addr_in_buffer hc hi).2 htop
  refine ⟨_, exec_bread_of_hasBar hf hp hb ha, ?_, ?_, kept_setPort ..⟩
  all_goals rw [State.setPort_port, if_pos rfl]
  rfl

/-! A whole BWRITE, and the read after it (rules R123 to R125). -/

/-- What a host port is in the middle of is no race for the port itself (rule R75). -/
theorem hostRace_setPort (s : State) (h : Nat) (p : Port) (a : Nat) (rmw : Bool) :
    (s.setPort h p).hostRace h a rmw = s.hostRace h a rmw := by
  have others : ∀ w, (s.setPort h p).othersMidWrite w h = s.othersMidWrite w h := fun w => by
    refine congrArg (List.any _) (funext fun g => ?_)
    by_cases hg : g = h
    · simp [hg]
    · simp [State.midWrite, hg]
  simp only [State.hostRace, others]
  rfl

/-- The state between the two events of a BWRITE: its port holds the granule that was read (rule R70). -/
def State.midBwrite (s : State) (b : Id) (v : Bool) : State :=
  s.setPort s.bus.hport { s.port s.bus.hport with pending := .bwrite b v (s.granuleAt (s.addrOf b.toNat)) }

/-- The port between the two events. -/
theorem midBwrite_port (s : State) (b : Id) (v : Bool) (h : Nat) : (s.midBwrite b v).port h =
    if h = s.bus.hport then { s.port h with pending := .bwrite b v (s.granuleAt (s.addrOf b.toNat)) } else s.port h := by
  rw [State.midBwrite, State.setPort_port]
  split <;> simp [*]

/-- The write-back of what the first event read: the byte of the BAR has its bit replaced, and nothing but that byte, the
port and the noted writes differs from before the first event (rules R123, R124). -/
theorem midBwrite_writeBack (hc : s.cfg.wf)
    (h : (s.midBwrite b v).writeBack b v (s.granuleAt (s.addrOf b.toNat)) = some t) :
    t.byteAt (s.addrOf b.toNat) = setBit (s.byteAt (s.addrOf b.toNat)) (s.bitOf b.toNat)
      ((s.bar b.toNat).desc.toRaw s.cfg v) ∧
    (t.port s.bus.hport).pending = .none ∧
    Kept { ports := [s.bus.hport], bytes := [s.addrOf b.toNat],
           writes := some (s.noteWrite s.bus.hport (s.addrOf b.toNat) true).writes } s t := by
  have byte : ∀ a, t.byteAt a = if a = s.addrOf b.toNat then
      setBit (s.byteAt a) (s.bitOf b.toNat) ((s.bar b.toNat).desc.toRaw s.cfg v) else s.byteAt a :=
    writeBack_byteAt (s := s.midBwrite b v) hc rfl h
  have kept := writeBack_kept (s := s.midBwrite b v) (granuleAt_length s _) h
  refine ⟨(byte _).trans (if_pos rfl), ?_, ?_⟩
  · rw [writeBack_port h]
    exact congrArg Port.pending (if_pos rfl)
  · exact
      { kept with
        port := fun g hg => (kept.port g hg).trans ((midBwrite_port ..).trans (if_neg (by simpa using hg)))
        byte := fun a ha => (byte a).trans (if_neg (by simpa using ha)) }

/-- The two events of a BWRITE with nothing between them: the read, which no other writer meets, and the write-back. -/
theorem exec_bwrite_twice (hs : Inv s) (hp : s.portReady) (hb : s.hasBar b)
    (hr : s.hostRace s.bus.hport (s.addrOf b.toNat) true = false) :
    ∃ u, exec (.bwrite b v) s = .next (s.midBwrite b v) ∧ exec (.bwrite b v) (s.midBwrite b v) = .next u ∧
      (s.midBwrite b v).writeBack b v (s.granuleAt (s.addrOf b.toNat)) = some u := by
  obtain ⟨⟨hf, -⟩, hfree⟩ := hp
  have hg : s.granuleExists (s.addrOf b.toNat) := granuleExists_of_lt hs.cfg (hs.addrOf_lt hb)
  have pending : ((s.midBwrite b v).port s.bus.hport).pending = .bwrite b v (s.granuleAt (s.addrOf b.toNat)) := by
    rw [midBwrite_port, if_pos rfl]
  obtain ⟨u, hw⟩ := writeBack_isSome (s := s.midBwrite b v) v hg (granuleAt_length s _)
  refine ⟨u, (exec_bwrite_free hf hfree).trans (bwriteRead_of_granule hb hr hg), ?_, hw⟩
  rw [exec_bwrite_pending (s := s.midBwrite b v) hf (portFree_iff.1 hfree).1 pending]
  exact bwriteWrite_of_writeBack ((hostRace_setPort ..).trans hr) hw

/-- The raw bit of a write, with `BAR_WRITE_XOR` at its default (D2). -/
theorem toRaw_of_barWriteXor {k : Config} (h : k.barWriteXor = true) (r : BarRecord) (v : Bool) :
    r.toRaw k v = xor v r.pol := by
  rw [BarRecord.toRaw, h, Bool.true_and]

/-- Settles O17: a whole BWRITE replaces one bit of one byte (`exec_bwrite_twice`, `midBwrite_writeBack`). -/
theorem bitWriteFrameLaw : Obligations.BitWriteFrameLaw := by
  intro s b v hs hp hx hb hr
  obtain ⟨u, read, write, hw⟩ := exec_bwrite_twice (v := v) hs hp hb hr
  obtain ⟨hbyte, -, kept⟩ := midBwrite_writeBack hs.cfg hw
  refine ⟨_, u, read, write, fun a k hk => ?_⟩
  by_cases ea : a = s.addrOf b.toNat
  · rw [ea, hbyte, setBit_getLsbD _ hk, toRaw_of_barWriteXor hx]
    simp
  · rw [kept.byte a (by simpa using ea), if_neg fun h => ea h.1]

/-- Settles O18: the write leaves every BAR, so `c` still targets the bit that it replaced, and the port free. -/
theorem writeThenReadBack : Obligations.WriteThenReadBack := by
  intro s b c v hs hp hx hb hc ha hk hr
  obtain ⟨u, read, write, hw⟩ := exec_bwrite_twice (v := v) hs hp hb hr
  obtain ⟨hbyte, idle, kept⟩ := midBwrite_writeBack hs.cfg hw
  have hbar : u.bar c.toNat = s.bar c.toNat := kept.bar _ List.not_mem_nil
  have haddr : u.addrOf c.toNat = s.addrOf b.toNat := by rw [State.addrOf, kept.cfg, hbar]; exact ha
  have hbit : u.bitOf c.toNat = s.bitOf b.toNat := by rw [State.bitOf, kept.cfg, hbar]; exact hk
  have running : u.fatal = false := (congrArg Prod.fst kept.halt).trans hp.1.1
  have free : u.portFree u.bus.hport = true := by
    rw [kept.bus]
    exact portFree_iff.2 ⟨kept.cfg ▸ (portFree_iff.1 hp.2).1, .inl idle⟩
  have answer := exec_bread_of_hasBar running free ⟨kept.cfg ▸ hc.1, hbar ▸ hc.2⟩
    (by rw [haddr, kept.cfg]; exact hs.addrOf_lt hb)
  have result : (s.bar c.toNat).desc.toLogical ((u.byteAt (s.addrOf b.toNat)).getLsbD (s.bitOf b.toNat)) =
      xor (xor v (s.bar b.toNat).desc.pol) (s.bar c.toNat).desc.pol := by
    rw [hbyte, setBit_getLsbD _ (bitOf_lt s _), if_pos rfl, toRaw_of_barWriteXor hx]; rfl
  rw [haddr, hbit, hbar, kept.bus] at answer
  refine ⟨_, u, _, read, write, answer, ?_, fun e => ?_⟩
  · rw [State.setPort_port, if_pos rfl]; exact result
  · rw [State.setPort_port, if_pos rfl, result, e]; simp

end Sys2Proof.Machine
end

section
/-! What the operations of one flow and those of one BAR leave alone (rules R120, R203, R228). -/

namespace Sys2Proof.Machine

variable {s t : State} {i : Instr}

/-- Of flows, BARs, host ports, lines and primitives `t` differs from `s` in flow `f`, its line, and the primitive it
names or asks for, at most; and a halt is the flow's own (rules R203, R228). -/
structure TouchesOneFlow (s t : State) (f : Nat) : Prop where
  flow : ∀ g, g ≠ f → t.flow g = s.flow g
  bar : ∀ b, t.bar b = s.bar b
  port : ∀ h, t.port h = s.port h
  latch : ∀ l, l ≠ (s.flow f).conf.latch → t.latch l = s.latch l
  owner : ∀ x, x ≠ (s.flow f).conf.xid → (s.flow f).inflight ≠ .xacq x → t.owner x = s.owner x
  halt : t.fatal = s.fatal ∨ t.fatalUnit = f

/-- An operation of a sequencer or a port touches the flow whose turn it is. -/
theorem move_touchesOneFlow (hi : i.ofFlow = true) (h : Move s i t) : TouchesOneFlow s t s.bus.flow := by
  cases h with
  | bnewRefuse | bnewHalt | bnewStore | breadRefuse | breadAnswer | bwriteRefuse | bwriteRead | bwriteWrite
  | fnewRefuse | fnewHalt | fnewStore | finitRefuse | finitIssue | ftrigRefuse | ftrigSet => exact nomatch hi
  | s3 | s7 | s10 | lclr | lset | twriteS5 =>
    exact ⟨fun g hg => by simp [hg], fun _ => rfl, fun _ => rfl, fun l hl => by simp [hl], fun _ _ _ => rfl, .inl rfl⟩
  | s11Release | xrel =>
    exact ⟨fun g hg => by simp [hg], fun _ => rfl, fun _ => rfl, fun _ _ => rfl, fun x hx _ => by simp [hx], .inl rfl⟩
  | xacqGrant y hy | xacqLate y hy =>
    have asked : ∀ x, (s.flow s.bus.flow).inflight ≠ .xacq x → x ≠ y := fun x hx e => hx (e ▸ hy)
    exact ⟨fun g hg => by simp [hg], fun _ => rfl, fun _ => rfl, fun _ _ => rfl,
      fun x _ hx => by simp [asked x hx], .inl rfl⟩
  | topenHalt | twriteHalt | treadHalt =>
    exact ⟨fun g hg => by simp [hg], fun _ => rfl, fun _ => rfl, fun _ _ => rfl, fun _ _ _ => rfl, .inr rfl⟩
  | _ => exact ⟨fun g hg => by simp [hg], fun _ => rfl, fun _ => rfl, fun _ _ => rfl, fun _ _ _ => rfl, .inl rfl⟩

/-- Of flows, lines, primitives, BARs and host ports `t` differs from `s` in BAR `b` and port `h` at most; and a halt is
the BAR's own (rules R120, R228). -/
structure TouchesOneBar (s t : State) (b h : Nat) : Prop where
  flow : ∀ f, t.flow f = s.flow f
  latch : ∀ l, t.latch l = s.latch l
  owner : ∀ x, t.owner x = s.owner x
  bar : ∀ c, c ≠ b → t.bar c = s.bar c
  port : ∀ g, g ≠ h → t.port g = s.port g
  halt : t.fatal = s.fatal ∨ t.fatalUnit = b

/-- A refusal touches no BAR and no port. -/
theorem touchesOneBar_refuse (s : State) (b h : Nat) (r : Reason) : TouchesOneBar s (s.refuse r) b h :=
  ⟨fun _ => rfl, fun _ => rfl, fun _ => rfl, fun _ _ => rfl, fun _ _ => rfl, .inl rfl⟩

/-- What a port answers or is in the middle of touches that port. -/
theorem touchesOneBar_setPort (s : State) (b h : Nat) (p : Port) : TouchesOneBar s (s.setPort h p) b h :=
  ⟨fun _ => rfl, fun _ => rfl, fun _ => rfl, fun _ _ => rfl, fun g hg => by rw [State.setPort_port, if_neg hg], .inl rfl⟩

/-- A BAR operation touches its BAR and the port it is on. -/
theorem move_touchesOneBar {b : Id} (hi : i = .bnew b ∨ i = .bread b ∨ ∃ v, i = .bwrite b v) (h : Move s i t) :
    TouchesOneBar s t b.toNat s.bus.hport := by
  rcases hi with rfl | rfl | ⟨v, rfl⟩
  · cases h with
    | bnewRefuse => exact touchesOneBar_refuse ..
    | bnewHalt => exact ⟨fun _ => rfl, fun _ => rfl, fun _ => rfl, fun _ _ => rfl, fun _ _ => rfl, .inr rfl⟩
    | bnewStore =>
      exact ⟨fun _ => rfl, fun _ => rfl, fun _ => rfl, fun c hc => by simp [hc], fun _ _ => rfl, .inl rfl⟩
  · cases h with
    | breadRefuse => exact touchesOneBar_refuse ..
    | breadAnswer => exact touchesOneBar_setPort ..
  · cases h with
    | bwriteRefuse => exact touchesOneBar_refuse ..
    | bwriteRead => exact touchesOneBar_setPort ..
    | bwriteWrite _ _ old _ hp hq hr hw =>
      obtain ⟨⟨m, rfl, -⟩, -⟩ := writeBytes_spec hw
      exact { touchesOneBar_setPort s b.toNat s.bus.hport _ with }

/-- What an operation leaves of `MEM`: every byte but the one that S8 stores, or the granule that BWRITE writes back
(rules R120, R203). -/
theorem move_byteAt_or (h : Move s i t) (a : Nat) :
    t.byteAt a = s.byteAt a ∨
    (i = .s8DeserIn ∧ s.actor.pc = 8#4 ∧ ∃ k v rest, s.actor.work = .store k (v :: rest) ∧
      a = s.actor.conf.iptr + k ∧ t.byteAt a = v) ∨
    (∃ b v old, i = .bwrite b v ∧ (s.port s.bus.hport).pending = .bwrite b v old ∧
      granuleBase s.cfg (s.addrOf b.toNat) ≤ a ∧ a < granuleBase s.cfg (s.addrOf b.toNat) + old.length) := by
  rcases move_mem h with e | ⟨hi, -, hj, k, v, rest, hk, e⟩ | ⟨b, v, old, hi, hq, e⟩
  · exact .inl (by rw [State.byteAt, State.byteAt, e])
  · have hat := byteAt_of_mem e a
    by_cases ea : a = s.actor.conf.iptr + k
    · exact .inr (.inl ⟨hi, hj, k, v, rest, hk, ea, hat.trans (if_pos ea)⟩)
    · exact .inl (hat.trans (if_neg ea))
  · have hat := (writeBytes_spec e).2 a
    rw [granuleWith, List.length_set] at hat
    by_cases hin : granuleBase s.cfg (s.addrOf b.toNat) ≤ a ∧ a < granuleBase s.cfg (s.addrOf b.toNat) + old.length
    · exact .inr (.inr ⟨b, v, old, hi, hq, hin⟩)
    · exact .inl (hat.trans (if_neg hin))

/-- Settles O59: an operation that answers a next state waited or made a move, and a move touches the flow or the BAR that
is its own (`move_touchesOneFlow`, `move_touchesOneBar`), and the bytes it writes (`move_byteAt_or`). -/
theorem unitsTouchOnlyTheirOwn : Obligations.UnitsTouchOnlyTheirOwn := by
  intro i s t h
  have running := exec_running h
  have own : ∀ u : Nat, t.fatal = s.fatal ∨ t.fatalUnit = u → t.fatal = true → t.fatalUnit = u := fun u hu ht =>
    hu.resolve_left fun e => nomatch (ht.symm.trans e).trans running
  rcases exec_move h with rfl | hm
  · exact ⟨rfl, fun _ => ⟨fun _ _ => rfl, fun _ => rfl, fun _ => rfl, fun _ _ => rfl, fun _ _ _ => rfl,
        fun _ => .inl rfl, own _ (.inl rfl)⟩,
      fun _ _ _ => ⟨fun _ => rfl, fun _ => rfl, fun _ => rfl, fun _ _ => rfl, fun _ _ => rfl, fun _ => .inl rfl,
        own _ (.inl rfl)⟩⟩
  · refine ⟨move_cfg hm, fun hi => ?_, fun b v hi => ?_⟩
    · obtain ⟨flow, bar, port, latch, owner, halt⟩ := move_touchesOneFlow hi hm
      refine ⟨flow, bar, port, latch, owner, fun a => (move_byteAt_or hm a).imp_right fun hw => hw.resolve_right ?_,
        own _ halt⟩
      rintro ⟨b, v, old, rfl, -⟩
      exact nomatch hi
    · obtain ⟨flow, latch, owner, bar, port, halt⟩ := move_touchesOneBar (hi.imp_right (.imp_right fun e => ⟨v, e⟩)) hm
      refine ⟨flow, latch, owner, bar, port, fun a => (move_byteAt_or hm a).imp_right ?_, own _ halt⟩
      rintro (⟨rfl, -⟩ | ⟨c, u, old, rfl, hq, hin⟩)
      · exact absurd hi (by simp)
      · obtain ⟨rfl, rfl⟩ : c = b ∧ u = v := by simpa using hi
        exact ⟨rfl, old, hq, hin⟩

end Sys2Proof.Machine
end

section
/-! The flow operations of the host: what FNEW, FINIT, the answer to TOPEN, and FTRIG do, and what each leaves alone
(rules R141 to R145, R192). -/

namespace Sys2Proof.Machine

variable {s t : State} {f : Id}

/-! Frames of updates made one after the other. -/

/-- A flow that a transition may change, written once more. -/
theorem Kept.setFlow {w : Touch} (h : Kept w s t) {g : Nat} (hg : g ∈ w.flows) (fl : Flow) :
    Kept w s (t.setFlow g fl) :=
  { h with
    flow := fun k hk => by
      have hne : k ≠ g := fun e => hk (e ▸ hg)
      rw [State.setFlow_flow, if_neg hne, h.flow k hk] }

/-- One port more. -/
theorem Kept.setPort {w : Touch} (h : Kept w s t) (n : Nat) (p : Port) :
    Kept { w with ports := n :: w.ports } s (t.setPort n p) :=
  { h with
    port := fun k hk => by
      obtain ⟨hne, hk⟩ := not_or.1 (List.mem_cons.not.1 hk)
      rw [State.setPort_port, if_neg hne, h.port k hk] }

/-- One event more, the last. -/
theorem Kept.emit {w : Touch} (h : Kept w s t) (e : Event) : Kept { w with events := w.events ++ [e] } s (t.emit e) :=
  { h with trace := by rw [State.emit_trace, h.trace, List.append_assoc] }

/-! FNEW (rules R141, R142). -/

/-- FNEW on a free port: the tests of its pseudocode in their order, those that answer BadId as one (rule R141). -/
theorem exec_fnew_free (hf : s.fatal = false) (hp : s.portFree s.bus.hport = true) :
    exec (.fnew f) s =
      if s.cfg.nFlows ≤ f.toNat ∨ (s.flow f.toNat).phase ≠ .void ∨ s.cfg.nTransports ≤ s.bus.conf.tport ∨
          s.cfg.nLatches ≤ s.bus.conf.latch ∨ (s.bus.conf.xp = true ∧ s.cfg.nExcl ≤ s.bus.conf.xid) then
        .next (s.refuse .badId)
      else if s.bus.conf.period ≤ 0 then .next (s.refuse .badPeriod)
      else if s.bus.conf.zeroLength then .next (s.refuse .zeroLength)
      else if s.bus.conf.wraps s.cfg then .next (s.refuse .bufferWraps)
      else if s.sharingOk s.bus.conf = false then .next (s.refuse .sharing)
      else if s.bus.conf.misaligned s.cfg then .next (s.raiseFatal .initMisaligned f.toNat)
      else .next (s.setFlow f.toNat ((s.flow f.toNat).construct s.bus.conf)) := by
  refine (onPort_of_free hf hp _).trans ?_
  simp only [ite_or]
  rfl

/-- A record that the flow invariant admits, allowed beside every flow that is not VOID, passes every test of FNEW. -/
theorem exec_fnew_of_confOk (hf : s.fatal = false) (hp : s.portFree s.bus.hport = true) (hn : f.toNat < s.cfg.nFlows)
    (hv : (s.flow f.toNat).phase = .void) (hc : ConfOk s.cfg s.bus.conf) (hs : s.sharingOk s.bus.conf = true) :
    exec (.fnew f) s = .next (s.setFlow f.toNat ((s.flow f.toNat).construct s.bus.conf)) := by
  obtain ⟨htport, hlatch, hxid, hperiod, hout, hin⟩ := hc
  have long : ¬ s.bus.conf.zeroLength := by
    rintro (⟨h, hlen⟩ | ⟨h, hlen⟩)
    · exact absurd (hout h).1 (by omega)
    · exact absurd (hin h).1 (by omega)
  have fits : ¬ s.bus.conf.wraps s.cfg := by
    rintro (⟨h, htop⟩ | ⟨h, htop⟩)
    · exact absurd (hout h).2.1 (not_le.2 htop)
    · exact absurd (hin h).2.1 (not_le.2 htop)
  have aligned : ¬ s.bus.conf.misaligned s.cfg := by
    rintro (⟨h, hw⟩ | ⟨h, hw⟩)
    · exact hw (hout h).2.2
    · exact hw (hin h).2.2
  rw [exec_fnew_free hf hp, if_neg ?named, if_neg (not_le.2 hperiod), if_neg long, if_neg fits, if_neg (by simp [hs]),
    if_neg aligned]
  case named => simpa [hn, hv, htport, hlatch] using hxid

/-- Settles O20: the flow of `exec_fnew_of_confOk` is `construct`, and only that flow is written. -/
theorem fnewConstructsFlow : Obligations.FnewConstructsFlow := by
  intro s f ⟨⟨hf, _⟩, hp⟩ hn hv hc hs
  have shared : s.sharingOk s.bus.conf = true := sharingOk_iff.2 fun g hg => or_iff_not_imp_left.2 (hs g hg)
  refine ⟨_, exec_fnew_of_confOk hf hp hn hv hc shared, ?_⟩
  have made : (s.setFlow f.toNat ((s.flow f.toNat).construct s.bus.conf)).flow f.toNat =
      (s.flow f.toNat).construct s.bus.conf := by rw [State.setFlow_flow, if_pos rfl]
  rw [made]
  exact ⟨rfl, rfl, rfl, rfl, rfl, rfl, rfl, rfl, kept_setFlow ..⟩

/-- The sharing rules are broken by some flow that is not VOID: over its transport without a common primitive, or over
its latch line (rule R142). -/
theorem sharingOk_eq_false {r : FlowRecord} :
    s.sharingOk r = false ↔ ∃ g < s.cfg.nFlows, (s.flow g).phase ≠ .void ∧
      ((r.tport = (s.flow g).conf.tport ∧
          ¬ (r.xp = true ∧ (s.flow g).conf.xp = true ∧ r.xid = (s.flow g).conf.xid)) ∨
        r.latch = (s.flow g).conf.latch) := by
  rw [← Bool.not_eq_true, sharingOk_iff]
  simp only [not_forall, not_or, FlowRecord.mayShare, not_and_or, not_not, exists_prop,
    ne_eq]

/-- Settles O21: the first test of FNEW that a record fails says what is answered. -/
theorem fnewRefusals : Obligations.FnewRefusals := by
  intro s f ⟨⟨hf, _⟩, hp⟩
  simp only [exec_fnew_free hf hp, not_lt, gt_iff_lt, ← sharingOk_eq_false]
  split_ifs
  · exact ⟨_, rfl, kept_refuse ..⟩
  · exact ⟨_, rfl, kept_refuse ..⟩
  · exact ⟨_, rfl, kept_refuse ..⟩
  · exact ⟨_, rfl, kept_refuse ..⟩
  · exact fun _ => ⟨_, rfl, kept_refuse ..⟩
  all_goals exact fun hs => absurd hs ‹_›

/-! FINIT and the answer to its TOPEN (rules R143, R192). -/

/-- FINIT on a free port. -/
theorem exec_finit_free (hf : s.fatal = false) (hp : s.portFree s.bus.hport = true) :
    exec (.finit f) s =
      if s.cfg.nFlows ≤ f.toNat ∨ (s.flow f.toNat).phase ≠ .constructed ∨ (s.flow f.toNat).inflight ≠ .none then
        .next (s.refuse .badPhase)
      else .next ((s.issue f.toNat .topen).setPort s.bus.hport { s.port s.bus.hport with pending := .finit f.toNat }) :=
  onPort_of_free hf hp _

/-- Settles O23, by the two branches of `exec_finit_free`. -/
theorem finitIssuesOpen : Obligations.FinitIssuesOpen := by
  intro s f ⟨⟨hf, _⟩, hp⟩
  rw [exec_finit_free hf hp]
  refine ⟨fun hn hph hi => ⟨_, if_neg (by simp [hn, hph, hi]), ?_, ?_, ?_, (kept_setFlow ..).setPort ..⟩, fun h => ?_⟩
  · rw [State.setPort_flow, State.issue_flow, if_pos rfl]
  · rw [State.setPort_port, if_pos rfl]
  · rw [State.setPort_port, if_pos rfl]
  · exact ⟨_, if_pos (h.imp_left not_lt.1), kept_refuse ..⟩

/-- TOPEN answered 1 for a CONSTRUCTED flow: FINIT goes on and starts it (rule R143). -/
theorem exec_topen_opened (hf : s.fatal = false) (hi : s.actor.inflight = .topen)
    (hph : s.actor.phase = .constructed) (hok : s.bus.ok = true) :
    exec .topen s = .next (((s.answered s.bus.flow).emit (.topen s.bus.flow s.actor.conf.tport true)).setFlow s.bus.flow
      { s.actor with inflight := .none }.start) := by
  rw [exec_topen_inflight hf hi, if_pos hph, hok, finitOpened, if_pos rfl, State.emit_flow, answered_actor]

/-- Settles O24: the flow is the one that FINIT starts, and the answer is one event (`exec_topen_opened`). -/
theorem openMakesFlowLive : Obligations.OpenMakesFlowLive := by
  intro s ⟨hf, _⟩ hi hph hok
  exact ⟨_, exec_topen_opened hf hi hph hok, State.setFlow_actor (State.emit ..) _,
    ((kept_setFlow ..).emit _).setFlow (List.mem_singleton_self _) _⟩

/-! FTRIG (rule R145). -/

/-- FTRIG on a free port. -/
theorem exec_ftrig_free (hf : s.fatal = false) (hp : s.portFree s.bus.hport = true) :
    exec (.ftrig f) s =
      if s.cfg.nFlows ≤ f.toNat ∨ (s.flow f.toNat).phase ≠ .live then .next (s.refuse .badPhase)
      else .next (s.setFlow f.toNat ((s.flow f.toNat).setTrig true)) :=
  onPort_of_free hf hp _

/-- Settles O26, by the two branches of `exec_ftrig_free`. -/
theorem ftrigSetsTrigger : Obligations.FtrigSetsTrigger := by
  intro s f ⟨⟨hf, _⟩, hp⟩
  rw [exec_ftrig_free hf hp]
  refine ⟨fun hn hl => ⟨_, if_neg (by simp [hn, hl]), ?_, kept_setFlow ..⟩, fun h => ?_⟩
  · rw [State.setFlow_flow, if_pos rfl]; rfl
  · exact ⟨_, if_pos (h.imp_left not_lt.1), kept_refuse ..⟩

end Sys2Proof.Machine
end

section
/-! The steps of the refresh cycle and the answers its port operations take, one at a time: what each leads to and what it
leaves alone (rules R161 to R172, R193 to R197). -/

namespace Sys2Proof.Machine

variable {s t : State}

/-! Frames of updates made one after the other. -/

/-- One line more. -/
theorem Kept.setLatch {w : Touch} (h : Kept w s t) (l : Nat) (v : Level) :
    Kept { w with latches := l :: w.latches } s (t.setLatch l v) :=
  { h with
    latch := fun k hk => by
      obtain ⟨hne, hk⟩ := not_or.1 (List.mem_cons.not.1 hk)
      rw [State.setLatch_latch, if_neg hne, h.latch k hk] }

/-- One primitive more. -/
theorem Kept.setOwner {w : Touch} (h : Kept w s t) (x : Nat) (o : Option Nat) :
    Kept { w with owners := x :: w.owners } s (t.setOwner x o) :=
  { h with
    owner := fun k hk => by
      obtain ⟨hne, hk⟩ := not_or.1 (List.mem_cons.not.1 hk)
      rw [State.setOwner_owner, if_neg hne, h.owner k hk] }

/-! Waiting, and asking for the primitive (rules R161, R162, R177, R195). -/

/-- Settles O27, by the two branches of `exec_s1Wait_taken`. -/
theorem s1WaitsForPeriodOrTrigger : Obligations.S1WaitsForPeriodOrTrigger := by
  intro s hs
  rw [exec_s1Wait_taken hs.1.1 (stepTaken_of_ready _ hs)]
  refine ⟨fun hd => ?_, fun hm ht => if_neg (by simp [Flow.due, hm, ht])⟩
  exact ⟨_, if_pos hd, s.setFlow_actor _, (kept_setFlow ..).emit _⟩

/-- Settles O28, by the two branches of `exec_s2Acq_taken`. -/
theorem s2AsksForPrimitive : Obligations.S2AsksForPrimitive := by
  intro s hs
  rw [exec_s2Acq_taken hs.1.1 (stepTaken_of_ready _ hs)]
  refine ⟨fun hx => ?_, fun hx => ?_⟩
  · exact ⟨_, if_neg (by simp [hx]), s.setFlow_actor _, kept_setFlow ..⟩
  · exact ⟨_, if_pos hx, s.setFlow_actor _, kept_setFlow ..⟩

/-- Settles O29, by the branches of `exec_xacq_inflight`: the grant goes on with the rest of S2. -/
theorem xacqGrantsFreePrimitive : Obligations.XacqGrantsFreePrimitive := by
  intro s x ⟨hf, _⟩ hi hj
  rw [exec_xacq_inflight hf hi]
  refine ⟨fun ho hc => ?_, fun ho => if_neg fun h => ho h.1, fun _ hc => if_neg (by simp [hc])⟩
  rw [if_pos ⟨ho, hc⟩, if_pos hj, s2Granted, State.emit_flow, State.setOwner_flow, answered_actor]
  exact ⟨_, rfl, (State.setOwner_owner ..).trans (if_pos rfl), State.setFlow_actor (State.emit ..) _,
    (((kept_setFlow ..).setOwner _ _).emit _).setFlow (List.mem_singleton_self _) _⟩

/-! Driving the line (rules R163, R167, R170, R190, R191). -/

/-- S3 and S10 drive the line of their flow low and go to another step, and touch nothing else. -/
theorem driveLow_goto (s : State) (k : StepCode) :
    ((s.driveLow s.bus.flow).goto s.bus.flow k).latch s.actor.conf.latch = .low ∧
    ((s.driveLow s.bus.flow).goto s.bus.flow k).actor = { s.actor with pc := k } ∧
    Kept { flows := [s.bus.flow], latches := [s.actor.conf.latch], events := [.lclr s.bus.flow s.actor.conf.latch] } s
      ((s.driveLow s.bus.flow).goto s.bus.flow k) :=
  ⟨(s.driveLow_latch ..).trans (if_pos rfl), (s.driveLow _).setFlow_actor _, ((kept_setFlow ..).setLatch _ _).emit _⟩

/-- Settles O30, by `driveLow_goto`. -/
theorem s3DrivesLatchLow : Obligations.S3DrivesLatchLow := fun s hs =>
  ⟨_, exec_s3LatchLow_taken hs.1.1 (stepTaken_of_ready _ hs), driveLow_goto s 4#4⟩

/-- Settles O41, by `driveLow_goto`. -/
theorem s10ReturnsLatchLow : Obligations.S10ReturnsLatchLow := fun s hs =>
  ⟨_, exec_s10LatchLow_taken hs.1.1 (stepTaken_of_ready _ hs), driveLow_goto s 11#4⟩

/-- Settles O36: of the lines S7 writes that of its flow only. -/
theorem s7DrivesLatchHigh : Obligations.S7DrivesLatchHigh := fun s hs =>
  ⟨_, exec_s7LatchHigh_taken hs.1.1 (stepTaken_of_ready _ hs), (s.driveHigh_latch ..).trans (if_pos rfl),
    (s.driveHigh _).setFlow_actor _, ((kept_setFlow ..).setLatch _ _).emit _⟩

/-! The transport writes and the read (rules R164, R165, R168, R193, R194). -/

/-- Settles O32, by the two branches of `exec_s5Filler_taken`. -/
theorem s5SendsFillerForInputOnly : Obligations.S5SendsFillerForInputOnly := by
  intro s hs
  rw [exec_s5Filler_taken hs.1.1 (stepTaken_of_ready _ hs)]
  refine ⟨fun hop hip => ?_, fun h => ?_⟩
  · exact ⟨_, if_pos ⟨hop, hip⟩, s.setFlow_actor _, kept_setFlow ..⟩
  · exact ⟨_, if_neg (by rcases h with h | h <;> simp [h]), s.setFlow_actor _, kept_setFlow ..⟩

/-- Settles O33: the right count takes S4 and S5 past their test, S5 with the line driven low after the write. -/
theorem fullWriteGoesOn : Obligations.FullWriteGoesOn := by
  intro s bytes n ⟨hf, _⟩ hi
  rw [exec_twrite_inflight hf hi]
  refine ⟨fun hj hcnt => ?_, fun hj hcnt => ?_⟩
  · have full : ¬ s.bus.cnt ≠ (({ s.actor with inflight := .none } : Flow).conf.olen : Int) := not_not.2 hcnt
    rw [if_pos hj, s4Written, State.emit_flow, answered_actor, if_neg full, State.goto, State.emit_flow, answered_actor]
    exact ⟨_, rfl, State.setFlow_actor (State.emit ..) _,
      ((kept_setFlow ..).emit _).setFlow (List.mem_singleton_self _) _⟩
  · have other : s.actor.pc ≠ 4#4 := by rw [hj]; decide
    rw [if_neg other, if_pos hj, s5Written, if_neg (not_not.2 hcnt), State.goto, State.driveLow_flow, State.driveLow,
      State.emit_flow, answered_actor]
    exact ⟨_, rfl, State.setFlow_actor (State.emit ..) _, (State.setLatch_latch ..).trans (if_pos rfl),
      ((((kept_setFlow ..).emit _).setLatch _ _).emit _).setFlow (List.mem_singleton_self _) _⟩

/-- Settles O39: the right count takes S8 past its test before any byte is stored. -/
theorem fullReadWaitsToBeStored : Obligations.FullReadWaitsToBeStored := by
  intro s n ⟨hf, _⟩ hi hj hn hcnt hlen
  have full : ¬ s.bus.cnt ≠ (({ s.actor with inflight := .none } : Flow).conf.ilen : Int) := not_not.2 (hn ▸ hcnt)
  rw [exec_tread_inflight hf hi, if_neg fun h => h.2 hlen, if_pos hj, s8Answered, State.emit_flow, answered_actor,
    if_neg full]
  exact ⟨_, rfl, State.setFlow_actor (State.emit ..) _,
    ((kept_setFlow ..).emit _).setFlow (List.mem_singleton_self _) _⟩

/-! The settling delays (rules R166, R169, R197). -/

/-- A hold begins with nothing in flight. -/
theorem holdStep_begins (k : Hold) (n : Nat) (after : StepCode) (hi : s.actor.inflight = .none) :
    ∃ t, holdStep k n after s s.bus.flow s.actor = .next t ∧
      t.actor = { s.actor with inflight := .delay k, hold := n } ∧ Kept { flows := [s.bus.flow] } s t :=
  ⟨_, if_pos hi, s.setFlow_actor _, kept_setFlow ..⟩

/-- A hold in flight lasts while it has not been counted down, and ends with its event. -/
theorem holdStep_lasts (k : Hold) (n : Nat) (after : StepCode) (hi : s.actor.inflight = .delay k) :
    (s.actor.hold ≠ 0 → holdStep k n after s s.bus.flow s.actor = .next s) ∧
    (s.actor.hold = 0 → ∃ t, holdStep k n after s s.bus.flow s.actor = .next t ∧
      t.actor = { s.actor with inflight := .none, pc := after } ∧
      Kept { flows := [s.bus.flow], events := [.delay s.bus.flow k] } s t) := by
  rw [holdStep, if_neg (by simp [hi])]
  exact ⟨fun h => if_neg h, fun h => ⟨_, if_pos h, s.setFlow_actor _, (kept_setFlow ..).emit _⟩⟩

/-- Settles O35: S6 and S9 are the two holds (`holdStep_begins`, `holdStep_lasts`). -/
theorem settlingDelaysHold : Obligations.SettlingDelaysHold := by
  refine ⟨fun s hs => ?_, fun s hs => ?_, fun s hs => ?_, fun s hs => ?_⟩
  · rw [exec_s6SettlePre_taken hs.1.1 (stepTaken_of_ready _ hs)]
    exact holdStep_begins _ _ _ hs.2.2.2.1
  · rw [exec_s6SettlePre_taken hs.1.1 (stepTaken_of_waiting hs)]
    exact holdStep_lasts _ _ _ hs.2.2.2.1
  · rw [exec_s9SettlePost_taken hs.1.1 (stepTaken_of_ready _ hs)]
    exact holdStep_begins _ _ _ hs.2.2.2.1
  · rw [exec_s9SettlePost_taken hs.1.1 (stepTaken_of_waiting hs)]
    exact holdStep_lasts _ _ _ hs.2.2.2.1

/-! Releasing the primitive, and the next cycle (rules R171, R172, R196). -/

/-- Settles O42, by the two branches of `exec_s11Rel_taken`. -/
theorem s11ReleasesIfHeld : Obligations.S11ReleasesIfHeld := by
  intro s hs
  rw [exec_s11Rel_taken hs.1.1 (stepTaken_of_ready _ hs)]
  refine ⟨fun hh => ?_, fun hh => ?_⟩
  · exact ⟨_, if_pos hh, (s.release_owner ..).trans (if_pos rfl), (s.release _).setFlow_actor _,
      ((kept_setFlow ..).setOwner _ _).emit _⟩
  · exact ⟨_, if_neg (by simp [hh]), s.setFlow_actor _, kept_setFlow ..⟩

/-- Settles O43: S12 writes the registers of its flow only. -/
theorem s12ResumesFromStepOne : Obligations.S12ResumesFromStepOne := fun s hs =>
  ⟨_, exec_s12Loop_taken hs.1.1 (stepTaken_of_ready _ hs), s.setFlow_actor _, kept_setFlow ..⟩

end Sys2Proof.Machine
end

section
/-! What the invariant says of the flows in steps 3 to 11: who holds the primitive and who may use the transport, which
level the line has, and whose events a transition appends (rules R142, R173, R178, R264). -/

namespace Sys2Proof.Machine

variable {s t : State} {i : Instr} {f g : Nat}

/-- In steps 3 to 11 a flow with a primitive holds and owns it (rules R29, R178). -/
theorem FlowsInv.holds_and_owns (hs : FlowsInv s) (hb : (s.flow f).inBusSteps) (hx : (s.flow f).conf.xp = true) :
    (s.flow f).held = true ∧ s.owner (s.flow f).conf.xid = some f := by
  have hh : (s.flow f).held = true := (hs.flows f).held.2 ⟨hx, hb⟩
  exact ⟨hh, (hs.owners _ f).2 ⟨hh, rfl⟩⟩

/-- A primitive has one owner, so of its flows one at most is in steps 3 to 11 (rule R178). -/
theorem FlowsInv.eq_of_inBusSteps (hs : FlowsInv s) (hf : (s.flow f).inBusSteps) (hg : (s.flow g).inBusSteps)
    (hxf : (s.flow f).conf.xp = true) (hxg : (s.flow g).conf.xp = true)
    (hx : (s.flow f).conf.xid = (s.flow g).conf.xid) : f = g := by
  have hof := (hs.holds_and_owns hf hxf).2
  have hog := (hs.holds_and_owns hg hxg).2
  rw [← hx, hof] at hog
  exact Option.some.inj hog

/-- Settles O51: two flows over one transport have a primitive in common (rule R142), and a primitive has one owner. -/
theorem oneFlowPerPrimitive : Obligations.OneFlowPerPrimitive := by
  intro s f g hs hf hg
  refine ⟨hs.flowsInv.holds_and_owns hf, hs.flowsInv.eq_of_inBusSteps hf hg, fun ht => ?_⟩
  by_contra hne
  obtain ⟨hxf, hxg, hx⟩ := (hs.sharing f g hne (Flow.present_of_live hf.1) (Flow.present_of_live hg.1)).1 ht
  exact hne (hs.flowsInv.eq_of_inBusSteps hf hg hxf hxg hx)

/-- What the levels of a step leave of a line: high in steps 8 to 10 only, and driven from step 4 on (rule R173). -/
theorem lineLevels_spec {v : Level} {k : StepCode} (h : v ∈ lineLevels k) :
    (v = .high ↔ 8 ≤ k.toNat ∧ k.toNat ≤ 10) ∧ (4 ≤ k.toNat → v ≠ .x) := by
  have table : ∀ k : StepCode, ∀ v ∈ lineLevels k,
      (v = .high ↔ 8 ≤ k.toNat ∧ k.toNat ≤ 10) ∧ (4 ≤ k.toNat → v ≠ .x) := by decide
  exact table k v h

/-- Settles O53: the level of the line is one of those of the flow's step. -/
theorem latchHighExactlyFromS7ToS10 : Obligations.LatchHighExactlyFromS7ToS10 := fun _ f hs hl =>
  lineLevels_spec (latchOk_iff.1 (hs.latches f hl))

/-! Whose events a transition appends. -/

/-- A live flow at a step from 3 to 11 is between its XACQ and its XREL. -/
theorem Flow.inBusSteps_at {fl : Flow} {j : StepCode} (hl : fl.phase = .live) (hj : fl.pc = j)
    (h : 3#4 ≤ j ∧ j ≤ 11#4) : fl.inBusSteps := ⟨hl, hj ▸ h⟩

/-- TWRITE is in flight between XACQ and XREL only (rules R164, R165). -/
theorem FlowsInv.twrite_inBusSteps {bytes : List Byte} {n : Nat} (hs : FlowsInv s)
    (h : (s.flow f).inflight = .twrite bytes n) : (s.flow f).inBusSteps := by
  obtain ⟨hl, hj | hj⟩ := hs.twrite_inflight h
  · exact Flow.inBusSteps_at hl hj (by decide)
  · exact Flow.inBusSteps_at hl hj (by decide)

/-- TREAD is in flight between XACQ and XREL only (rule R168). -/
theorem FlowsInv.tread_inBusSteps {n : Nat} (hs : FlowsInv s) (h : (s.flow f).inflight = .tread n) :
    (s.flow f).inBusSteps := by
  obtain ⟨hl, hj, -⟩ := hs.tread_inflight h
  exact Flow.inBusSteps_at hl hj (by decide)

/-- A move appends events of the lines and of the transports' data only of a flow in steps 3 to 11 (rules R163 to
R170). -/
theorem move_busEvents (hs : FlowsInv s) (h : Move s i t) :
    ∃ es, t.trace = s.trace ++ es ∧ ∀ e ∈ es, ∀ g, e.busFlow = some g → (s.flow g).inBusSteps := by
  cases h with
  | s3 h | s7 h | s10 h =>
    obtain ⟨hl, hj, -⟩ := stepTaken_flow h
    have hb := Flow.inBusSteps_at hl hj (by decide)
    exact ⟨[_], rfl, by simpa [Event.busFlow] using hb⟩
  | twriteLate _ _ hi | twriteS4 _ _ hi =>
    have hb := hs.twrite_inBusSteps hi
    exact ⟨[_], rfl, by simpa [Event.busFlow] using hb⟩
  | twriteS5 _ _ hi | twriteHalt _ _ hi =>
    have hb := hs.twrite_inBusSteps hi
    exact ⟨[_, _], List.append_assoc _ [_] [_], by simpa [Event.busFlow] using hb⟩
  | treadLate _ hi | treadS8 _ hi =>
    have hb := hs.tread_inBusSteps hi
    exact ⟨[_], rfl, by simpa [Event.busFlow] using hb⟩
  | treadHalt _ hi =>
    have hb := hs.tread_inBusSteps hi
    exact ⟨[_, _], List.append_assoc _ [_] [_], by simpa [Event.busFlow] using hb⟩
  | lclr hi => exact (hs.no_line_operation (.inl hi)).elim
  | lset hi => exact (hs.no_line_operation (.inr (.inl hi))).elim
  | topenHalt => exact ⟨[_, _], List.append_assoc _ [_] [_], by simp [Event.busFlow]⟩
  | bnewHalt | fnewHalt | s1Leave | s6End | s9End | s11Release | xrel | topenLate | topenStart | xacqGrant | xacqLate =>
    exact ⟨[_], rfl, by simp [Event.busFlow]⟩
  | bwriteWrite _ _ _ _ _ _ _ hw =>
    obtain ⟨⟨m, rfl, -⟩, -⟩ := writeBytes_spec hw
    exact ⟨[], (List.append_nil _).symm, by simp⟩
  | _ => exact ⟨[], (List.append_nil _).symm, by simp⟩

/-- Settles O52: only a move appends events, those of the lines and transports are of a flow in steps 3 to 11
(`move_busEvents`), and such a flow holds and owns its primitive. -/
theorem busOnlyUnderExclusion : Obligations.BusOnlyUnderExclusion := by
  intro s t hs h hn
  have silent : t.trace = s.trace → ∃ es, t.trace = s.trace ++ es ∧ ∀ e ∈ es, ∀ f, e.busFlow = some f →
      (s.flow f).conf.xp = true → (s.flow f).held = true ∧ s.owner (s.flow f).conf.xid = some f := fun e =>
    ⟨[], by rw [e, List.append_nil], by simp⟩
  rcases step_next h with ⟨hr, -⟩ | ⟨-, -, sc, d, b, u, rfl, hc⟩
  · exact absurd hr hn
  · rcases hc with rfl | ⟨i, -, hm⟩ | ⟨w, rfl⟩ | ⟨g, -, -, rfl⟩ | ⟨a, c, -, rfl⟩ | ⟨p, a, v, -, -, -, hw⟩
    · exact silent rfl
    · have hu : FlowsInv { s with script := sc, draws := d, bus := b } := hs.flowsInv.congr rfl rfl rfl rfl
      obtain ⟨es, ht, hb⟩ := move_busEvents hu hm
      exact ⟨es, ht, fun e he f hf => hs.flowsInv.holds_and_owns (hb e he f hf)⟩
    · exact silent rfl
    · exact silent rfl
    · exact silent rfl
    · obtain ⟨-, rfl⟩ := memWrite_eq_some.1 hw
      exact silent rfl

end Sys2Proof.Machine
end

section
/-! What a refresh cycle changes, from one moment to the next: the rules for putting transitions together into a run that
nobody else steps into (rules R160, R174, R177). -/

namespace Sys2Proof.Machine

/-- A run that goes on after its first `m` steps. -/
theorem run_append {M : Host.Core} {m n : Nat} {s t : M.State} (h : M.run m s = .next t) : M.run (m + n) s = M.run n t := by
  induction m generalizing s with
  | zero => cases h; rw [Nat.zero_add]
  | succ m ih =>
    rw [Nat.succ_add]
    simp only [Host.Core.run] at h ⊢
    split at h
    · exact ih h
    · cases h
    · cases h

/-- A run of one step. -/
theorem run_one {M : Host.Core} {s t : M.State} (h : M.step s = .next t) : M.run 1 s = .next t := by
  simp only [Host.Core.run, h]

/-- What a cycle of one flow changes: the working registers of the flow, its line, the owner of its primitive, `MEM`, and
the events appended so far. -/
structure Moment where
  pc : StepCode
  trig : Bool
  held : Bool
  timer : Int
  inflight : PortOp
  work : Work
  hold : Nat
  line : Level
  owner : Option Nat
  byte : Nat → Byte
  events : List Event

/-- The registers of the flow at a moment. -/
def Moment.regs (m : Moment) (fl : Flow) : Flow :=
  { fl with
    pc := m.pc, trig := m.trig, held := m.held, timer := m.timer, inflight := m.inflight, work := m.work, hold := m.hold }

/-- The moment inside step `k`, with an operation in flight or memory events outstanding. -/
def Moment.inside (m : Moment) (k : StepCode) (p : PortOp) (w : Work) : Moment :=
  { m with pc := k, inflight := p, work := w }

/-- The moment at the beginning of a step: nothing is in flight and no memory event outstanding. -/
def Moment.at (m : Moment) (k : StepCode) : Moment := m.inside k .none .idle

/-- The moment with some events appended. -/
def Moment.emits (m : Moment) (es : List Event) : Moment := { m with events := m.events ++ es }

/-- `t` is `s` but for what the cycle of flow `f` changes, and that is as at moment `m`. -/
structure Shows (s : State) (f : Nat) (m : Moment) (t : State) : Prop where
  cfg : t.cfg = s.cfg
  bar : ∀ b, t.bar b = s.bar b
  port : ∀ h, t.port h = s.port h
  flow : ∀ g, t.flow g = if g = f then m.regs (s.flow f) else s.flow g
  latch : ∀ l, t.latch l = if l = (s.flow f).conf.latch then m.line else s.latch l
  owner : ∀ x, t.owner x = if x = (s.flow f).conf.xid then m.owner else s.owner x
  byte : ∀ a, t.byteAt a = m.byte a
  trace : t.trace = s.trace ++ m.events
  clean : t.clean

/-- Of what a statement lets a transition touch, only what a cycle of the flow of this record changes. -/
abbrev Touch.Within (c : Touch) (f : Nat) (r : FlowRecord) : Prop :=
  c.bars = [] ∧ c.ports = [] ∧ c.halt = none ∧ c.refusal = none ∧ c.flows ⊆ [f] ∧ c.latches ⊆ [r.latch] ∧
    c.owners ⊆ [r.xid]

variable {s t u : State} {f : Nat} {m m' m'' : Moment}

/-- The inputs still to come and the port signals are no part of a moment. -/
theorem Shows.served (h : Shows s f m t) (rest : List Input) (b : Bus) :
    Shows s f m { t with script := rest, bus := b } :=
  ⟨h.cfg, h.bar, h.port, h.flow, h.latch, h.owner, h.byte, h.trace, h.clean⟩

/-- The flow whose turn it is, at a moment. -/
theorem Shows.actor (h : Shows s f m t) (bus : t.bus.flow = f) : t.actor = m.regs (s.flow f) := by
  rw [State.actor, h.flow, if_pos bus]

/-- A transition that touches no more than the cycle changes leads to the moment that its results show. -/
theorem Shows.next {c : Touch} (h : Shows s f m t) (hk : Kept c t u) (hc : c.Within f (s.flow f).conf)
    (regs : u.flow f = m'.regs (s.flow f))
    (line : u.latch (s.flow f).conf.latch = m'.line) (owner : u.owner (s.flow f).conf.xid = m'.owner)
    (byte : ∀ a, u.byteAt a = m'.byte a) (events : m'.events = m.events ++ c.events) :
    u.script = t.script ∧ Shows s f m' u := by
  obtain ⟨bars, ports, halt, refusal, flows, latches, owners⟩ := hc
  have hhalt := hk.halt
  have hrefusal := hk.refusal
  simp only [halt, refusal, Option.elim_none, Prod.mk.injEq] at hhalt hrefusal
  refine ⟨hk.script, ⟨hk.cfg.trans h.cfg, fun b => (hk.bar b (by simp [bars])).trans (h.bar b),
    fun g => (hk.port g (by simp [ports])).trans (h.port g), fun g => ?_, fun l => ?_, fun x => ?_, byte, ?_,
    hhalt.1.trans h.clean.1, hrefusal.1.trans h.clean.2⟩⟩
  · split
    · rw [← regs, ‹g = f›]
    · rw [hk.flow g fun hg => ‹g ≠ f› (List.mem_singleton.1 (flows hg)), h.flow, if_neg ‹_›]
  · split
    · rw [← line, ‹l = _›]
    · rw [hk.latch l fun hl => ‹l ≠ _› (List.mem_singleton.1 (latches hl)), h.latch, if_neg ‹_›]
  · split
    · rw [← owner, ‹x = _›]
    · rw [hk.owner x fun hx => ‹x ≠ _› (List.mem_singleton.1 (owners hx)), h.owner, if_neg ‹_›]
  · rw [hk.trace, h.trace, events, List.append_assoc]

/-- A transition leaves it the turn of the flow whose turn it is. -/
theorem Kept.flow_actor {c : Touch} (hk : Kept c t u) (bus : t.bus.flow = f) : u.flow f = u.actor := by
  rw [State.actor, hk.bus, bus]

/-- The line, when a transition has left it. -/
theorem Shows.line_kept {c : Touch} (h : Shows s f m t) (hk : Kept c t u) (hc : c.latches = []) :
    u.latch (s.flow f).conf.latch = m.line :=
  (hk.latch _ (by simp [hc])).trans ((h.latch _).trans (if_pos rfl))

/-- The owner, when a transition has left it. -/
theorem Shows.owner_kept {c : Touch} (h : Shows s f m t) (hk : Kept c t u) (hc : c.owners = []) :
    u.owner (s.flow f).conf.xid = m.owner :=
  (hk.owner _ (by simp [hc])).trans ((h.owner _).trans (if_pos rfl))

/-- `MEM`, when a transition has left it. -/
theorem Shows.byte_kept {c : Touch} (h : Shows s f m t) (hk : Kept c t u) (hc : c.bytes = []) (a : Nat) :
    u.byteAt a = m.byte a :=
  (hk.byte a (by simp [hc])).trans (h.byte a)

/-- A transition that changes registers of its flow and appends events. -/
theorem Shows.quiet {es : List Event} (h : Shows s f m t) (bus : t.bus.flow = f)
    (hk : Kept { flows := [f], events := es } t u) (regs : u.actor = m'.regs (s.flow f)) (line : m.line = m'.line := by rfl)
    (owner : m.owner = m'.owner := by rfl) (byte : m.byte = m'.byte := by rfl)
    (events : m'.events = m.events ++ es := by simp [Moment.at, Moment.inside, Moment.emits, Moment.regs]) :
    u.script = t.script ∧ Shows s f m' u :=
  h.next hk (by simp) (regs ▸ hk.flow_actor bus) ((h.line_kept hk rfl).trans line) ((h.owner_kept hk rfl).trans owner)
    (fun a => (h.byte_kept hk rfl a).trans (congrFun byte a)) events

/-- A transition that also drives the line of its flow. -/
theorem Shows.drive {es : List Event} (h : Shows s f m t) (bus : t.bus.flow = f)
    (hk : Kept { flows := [f], latches := [(s.flow f).conf.latch], events := es } t u)
    (regs : u.actor = m'.regs (s.flow f)) (line : u.latch (s.flow f).conf.latch = m'.line)
    (owner : m.owner = m'.owner := by rfl) (byte : m.byte = m'.byte := by rfl)
    (events : m'.events = m.events ++ es := by simp [Moment.at, Moment.inside, Moment.emits, Moment.regs]) :
    u.script = t.script ∧ Shows s f m' u :=
  h.next hk (by simp) (regs ▸ hk.flow_actor bus) line ((h.owner_kept hk rfl).trans owner)
    (fun a => (h.byte_kept hk rfl a).trans (congrFun byte a)) events

/-- A transition at which the flow takes its primitive or gives it back. -/
theorem Shows.exchange {es : List Event} (h : Shows s f m t) (bus : t.bus.flow = f)
    (hk : Kept { flows := [f], owners := [(s.flow f).conf.xid], events := es } t u)
    (regs : u.actor = m'.regs (s.flow f)) (owner : u.owner (s.flow f).conf.xid = m'.owner)
    (line : m.line = m'.line := by rfl) (byte : m.byte = m'.byte := by rfl)
    (events : m'.events = m.events ++ es := by simp [Moment.at, Moment.inside, Moment.emits, Moment.regs]) :
    u.script = t.script ∧ Shows s f m' u :=
  h.next hk (by simp) (regs ▸ hk.flow_actor bus) ((h.line_kept hk rfl).trans line) owner
    (fun a => (h.byte_kept hk rfl a).trans (congrFun byte a)) events

/-! Runs from moment to moment. -/

/-- Whatever is to come after them, the inputs `xs` lead from moment `m` of the cycle of flow `f` to moment `m'`. -/
def Goes (s : State) (f : Nat) (m : Moment) (xs : List Input) (m' : Moment) : Prop :=
  ∀ t rest, Shows s f m t → t.script = xs ++ rest →
    ∃ u, Host.Core.run core xs.length t = .next u ∧ State.script u = rest ∧ Shows s f m' u

/-- No input leads nowhere. -/
theorem Goes.refl (s : State) (f : Nat) (m : Moment) : Goes s f m [] m := fun t _ h hs => ⟨t, rfl, hs, h⟩

/-- One run after the other. -/
theorem Goes.trans {xs ys : List Input} (h : Goes s f m xs m') (h' : Goes s f m' ys m'') : Goes s f m (xs ++ ys) m'' := by
  intro t rest ht hs
  obtain ⟨u, hu, hus, hum⟩ := h t (ys ++ rest) ht (by rw [hs, List.append_assoc])
  obtain ⟨v, hv, hvs, hvm⟩ := h' u rest hum hus
  exact ⟨v, by rw [List.length_append, run_append hu, hv], hvs, hvm⟩

/-- One transition. -/
theorem Goes.step {x : Input}
    (h : ∀ t rest, Shows s f m t → t.script = x :: rest → ∃ u, step t = .next u ∧ u.script = rest ∧ Shows s f m' u) :
    Goes s f m [x] m' := by
  intro t rest ht hs
  obtain ⟨u, hu, hus, hum⟩ := h t rest ht hs
  exact ⟨u, run_one (M := core) hu, hus, hum⟩

/-- A boundary of the cycle of flow `f` at which nothing holds the cycle up but what it waits for itself. -/
structure Unhindered (s : State) (f : Nat) : Prop where
  inv : Inv s
  live : (s.flow f).phase = .live
  ctx : s.ctxFree f = true
  idle : ∀ h b v old, (s.port h).pending ≠ .bwrite b v old

/-- The flow exists (rule R24). -/
theorem Unhindered.exists (h : Unhindered s f) : f < s.cfg.nFlows := (h.inv.confs f (Flow.present_of_live h.live)).1

/-- The configuration of the flow meets its constraints (rule R25). -/
theorem Unhindered.confOk (h : Unhindered s f) : ConfOk s.cfg (s.flow f).conf :=
  (h.inv.confs f (Flow.present_of_live h.live)).2

/-- Through its cycle the execution context of the flow stays free. -/
theorem Shows.ctxFree (hu : Unhindered s f) (h : Shows s f m t) : t.ctxFree f = true := by
  refine ctxFree_iff.2 fun g hg => or_iff_not_imp_left.2 fun e => ?_
  rw [h.flow g, if_neg e, h.flow f, if_pos rfl]
  exact (ctxFree_iff.1 hu.ctx g (h.cfg ▸ hg)).resolve_left e

/-- Through the cycle no port is in the middle of a BWRITE. -/
theorem Shows.anyMidWrite (hu : Unhindered s f) (h : Shows s f m t) (w : Nat) : t.anyMidWrite w = false := by
  refine anyMidWrite_eq_false.2 fun g _ => Bool.eq_false_of_not_eq_true fun hm => ?_
  obtain ⟨b, v, old, hq, -⟩ := midWrite_iff.1 hm
  exact hu.idle g b v old (h.port g ▸ hq)

/-- A turn of the sequencer: the step of its `pc`. -/
theorem goes_turn {k : StepCode} {p : PortOp} {i : Instr} (hu : Unhindered s f) (hpc : m.pc = k) (hi : m.inflight = p)
    (hd : decodeS k = .ok i)
    (h : ∀ t, Shows s f m t → t.bus.flow = f → t.actor = m.regs (s.flow f) → t.stepReady k p →
      ∃ u, exec i t = .next u ∧ u.script = t.script ∧ Shows s f m' u) : Goes s f m (turns f 1) m' := by
  refine Goes.step fun t rest ht hs => ?_
  obtain ⟨hx, hT⟩ := nextInput_of_script hs
  have regs : t.flow f = m.regs (s.flow f) := (ht.flow f).trans (if_pos rfl)
  have hstep := step_sequencer ht.clean.1 hx (ht.cfg ▸ hu.exists) (by rw [regs]; exact hu.live)
    (by rw [regs]; exact hpc ▸ hd)
  rw [hT] at hstep
  have hv := ht.served rest { t.bus with flow := f }
  have act := hv.actor rfl
  rw [hstep]
  exact h _ hv rfl act ⟨hv.clean, by rw [act]; exact hu.live, by rw [act]; exact hpc, by rw [act]; exact hi, hv.ctxFree hu⟩

/-- An answer of the environment: the port operation in flight. -/
theorem goes_answer {i : Instr} {cnt : Int} {data : List Byte} (hu : Unhindered s f)
    (hd : decodeP m.inflight.code = .ok i)
    (h : ∀ t, Shows s f m t → t.bus.flow = f → t.actor = m.regs (s.flow f) → t.bus.cnt = cnt → t.bus.data = data →
      ∃ u, exec i t = .next u ∧ u.script = t.script ∧ Shows s f m' u) : Goes s f m [.answer f true cnt data] m' := by
  refine Goes.step fun t rest ht hs => ?_
  obtain ⟨hx, hT⟩ := nextInput_of_script hs
  have regs : t.flow f = m.regs (s.flow f) := (ht.flow f).trans (if_pos rfl)
  have hstep := step_answer ht.clean.1 hx (ht.cfg ▸ hu.exists) (by rw [regs]; exact hd)
  rw [hT] at hstep
  have hv := ht.served rest { t.bus with flow := f, ok := true, cnt := cnt, data := data }
  rw [hstep]
  exact h _ hv rfl (hv.actor rfl) rfl rfl

/-- One unit of time in a hold counts it down, and nothing else. -/
theorem Shows.tick {d : Hold} (h : Shows s f m t) (hpc : m.pc ≠ 1#4) (hi : m.inflight = .delay d) :
    Shows s f { m with hold := m.hold - 1 } (t.setFlow f (t.flow f).tick) := by
  have hk := kept_setFlow t f (t.flow f).tick
  have regs : ({ m with hold := m.hold - 1 } : Moment).regs (s.flow f) = (m.regs (s.flow f)).tick := by
    simp [Moment.regs, Flow.tick, hpc, hi]
  have made : (t.setFlow f (t.flow f).tick).flow f = ({ m with hold := m.hold - 1 } : Moment).regs (s.flow f) := by
    rw [State.setFlow_flow, if_pos rfl, h.flow, if_pos rfl, regs]
  exact (h.next hk (by simp) made (h.line_kept hk rfl) (h.owner_kept hk rfl) (h.byte_kept hk rfl)
    (List.append_nil _).symm).2

/-- One unit of the time base in a hold (rule R197). -/
theorem goes_tick {d : Hold} (hu : Unhindered s f) (hpc : m.pc ≠ 1#4) (hi : m.inflight = .delay d) :
    Goes s f m [.tick f] { m with hold := m.hold - 1 } := by
  refine Goes.step fun t rest ht hs => ?_
  obtain ⟨hx, hT⟩ := nextInput_of_script hs
  have hstep : step t = tickFlow f (takeInput t) := step_event ht.clean.1 fun u => by rw [hx]; rfl
  rw [hstep, hT, tickFlow, if_pos (show f < t.cfg.nFlows from ht.cfg ▸ hu.exists)]
  exact ⟨_, rfl, rfl, (ht.served rest t.bus).tick hpc hi⟩

end Sys2Proof.Machine
end

section
/-! The steps of a cycle from moment to moment: each is the statement about its operation, said of the flow whose cycle it
is (rules R161 to R172). -/

namespace Sys2Proof.Machine

variable {s : State} {f : Nat} {m : Moment}

/-! S1 to S3. -/

/-- S1 when its wait is over (rule R161). -/
theorem goes_s1 (hu : Unhindered s f) (hdue : m.timer = 0 ∨ m.trig = true) :
    Goes s f (m.at 1#4) (turns f 1)
      (({ m with trig := false }.emits [.wait f (if m.trig then .trigger else .period)]).at 2#4) :=
  goes_turn hu rfl rfl rfl fun t h bus act ready => by
    obtain ⟨u, he, ha, hk⟩ := (s1WaitsForPeriodOrTrigger t ready).1 (by rw [act]; exact hdue)
    rw [act] at ha hk
    rw [bus] at hk
    exact ⟨u, he, h.quiet bus hk ha (events := rfl)⟩

/-- S2 without a primitive (rule R162). -/
theorem goes_s2_pass (hu : Unhindered s f) (hx : (s.flow f).conf.xp = false) :
    Goes s f (m.at 2#4) (turns f 1) (m.at 3#4) :=
  goes_turn hu rfl rfl rfl fun t h bus act ready => by
    obtain ⟨u, he, ha, hk⟩ := (s2AsksForPrimitive t ready).1 (by rw [act]; exact hx)
    rw [act] at ha
    rw [bus] at hk
    exact ⟨u, he, h.quiet bus hk ha⟩

/-- S2 asks for the primitive (rule R162). -/
theorem goes_s2_ask (hu : Unhindered s f) (hx : (s.flow f).conf.xp = true) :
    Goes s f (m.at 2#4) (turns f 1) (m.inside 2#4 (.xacq (s.flow f).conf.xid) .idle) :=
  goes_turn hu rfl rfl rfl fun t h bus act ready => by
    obtain ⟨u, he, ha, hk⟩ := (s2AsksForPrimitive t ready).2 (by rw [act]; exact hx)
    rw [act] at ha
    rw [bus] at hk
    exact ⟨u, he, h.quiet bus hk ha⟩

/-- The grant of a free primitive (rules R162, R195). -/
theorem goes_grant (hu : Unhindered s f) (hown : m.owner = none) :
    Goes s f (m.inside 2#4 (.xacq (s.flow f).conf.xid) .idle) [.answer f true 0 []]
      (({ m with held := true, owner := some f }.emits [.xacq f (s.flow f).conf.xid]).at 3#4) :=
  goes_answer (i := .xacq) hu rfl fun t h bus act _ _ => by
    have free : t.owner (s.flow f).conf.xid = none := (h.owner _).trans ((if_pos rfl).trans hown)
    obtain ⟨u, he, ho, ha, hk⟩ := (xacqGrantsFreePrimitive t _ h.clean (by rw [act]; rfl) (by rw [act]; rfl)).1 free
      (bus ▸ h.ctxFree hu)
    rw [act] at ha
    rw [bus] at ho hk
    exact ⟨u, he, h.exchange bus hk ha ho⟩

/-- S2, with the grant when a primitive is configured: then the flow holds it (rule R162). -/
theorem goes_s2 (hu : Unhindered s f) (hheld : m.held = false) (hown : (s.flow f).conf.xp = true → m.owner = none) :
    Goes s f (m.at 2#4) (if (s.flow f).conf.xp then turns f 1 ++ [.answer f true 0 []] else turns f 1)
      (({ m with held := (s.flow f).conf.xp, owner := if (s.flow f).conf.xp then some f else m.owner }.emits
        (if (s.flow f).conf.xp then [.xacq f (s.flow f).conf.xid] else [])).at 3#4) := by
  cases hx : (s.flow f).conf.xp with
  | false =>
    have same : { m with held := false } = m := by rw [← hheld]
    simpa [Moment.emits, same] using goes_s2_pass hu hx
  | true => exact (goes_s2_ask hu hx).trans (goes_grant hu (hown hx))

/-- S3 (rule R163). -/
theorem goes_s3 (hu : Unhindered s f) :
    Goes s f (m.at 3#4) (turns f 1) (({ m with line := .low }.emits [.lclr f (s.flow f).conf.latch]).at 4#4) :=
  goes_turn hu rfl rfl rfl fun t h bus act ready => by
    obtain ⟨u, he, hl, ha, hk⟩ := s3DrivesLatchLow t ready
    rw [act] at hl ha hk
    rw [bus] at hk
    exact ⟨u, he, h.drive bus hk ha hl⟩

/-! S4 and S5. -/

/-- S4 without an output buffer (rule R164). -/
theorem goes_s4_pass (hu : Unhindered s f) (hop : (s.flow f).conf.op = false) :
    Goes s f (m.at 4#4) (turns f 1) (m.at 5#4) :=
  goes_turn hu rfl rfl rfl fun t h bus act ready => by
    obtain ⟨u, he, ha, hk⟩ := (s4SerializesOutput t ready).2.2 (by rw [act]; exact hop)
    rw [act] at ha
    rw [bus] at hk
    exact ⟨u, he, h.quiet bus hk ha⟩

/-- S4 reads the `n` bytes it has not read yet, one a transition, and issues the write of all (rules R77, R164). -/
theorem goes_gather (hu : Unhindered s f) (hop : (s.flow f).conf.op = true) (n : Nat) :
    ∀ (w : Work) (got : List Byte), ({ s.flow f with work := w } : Flow).gathered = got →
      got.length + n = (s.flow f).conf.olen →
      Goes s f (m.inside 4#4 .none w) (turns f (n + 1))
        (m.inside 4#4 (.twrite (got ++ (List.range' got.length n).map fun k => m.byte ((s.flow f).conf.optr + k))
          (s.flow f).conf.olen) .idle) := by
  induction n with
  | zero =>
    intro w got hw hlen
    refine goes_turn hu rfl rfl rfl fun t h bus act ready => ?_
    have hgot : t.actor.gathered = got := by rw [act]; exact hw
    obtain ⟨u, he, ha, hk⟩ := (s4SerializesOutput t ready).2.1 (by rw [act]; exact hop) (by rw [hgot, act]; exact hlen)
    rw [hgot, act] at ha
    rw [bus] at hk
    refine ⟨u, he, h.quiet bus hk (ha.trans ?_)⟩
    simp [Moment.regs, Moment.inside]
  | succ n ih =>
    intro w got hw hlen
    have top := (hu.confOk.2.2.2.2.1 hop).2.1
    have read : Goes s f (m.inside 4#4 .none w) (turns f 1)
        (m.inside 4#4 .none (.gather (got ++ [m.byte ((s.flow f).conf.optr + got.length)]))) := by
      refine goes_turn hu rfl rfl rfl fun t h bus act ready => ?_
      have hgot : t.actor.gathered = got := by rw [act]; exact hw
      obtain ⟨u, he, ha, hk⟩ := (s4SerializesOutput t ready).1 (by rw [act]; exact hop)
        (by rw [hgot, act]; exact (by omega : got.length < (s.flow f).conf.olen)) (by rw [act, h.cfg]; exact top)
      rw [hgot, act, h.byte] at ha
      rw [bus] at hk
      exact ⟨u, he, h.quiet bus hk ha⟩
    have more := fun got' => ih (.gather got') got' rfl
    have run := read.trans (more _ (by rw [List.length_append, List.length_singleton]; omega))
    rw [List.append_assoc, List.length_append, List.length_singleton] at run
    rw [List.range'_succ, List.map_cons]
    exact run

/-- The write of the whole OUT buffer, answered with its length (rules R164, R193). -/
theorem goes_s4_written (hu : Unhindered s f) (bytes : List Byte) (n : Nat) :
    Goes s f (m.inside 4#4 (.twrite bytes n) .idle) [.answer f true (s.flow f).conf.olen []]
      ((m.emits [.twrite f (s.flow f).conf.tport bytes (s.flow f).conf.olen]).at 5#4) :=
  goes_answer (i := .twrite) hu rfl fun t h bus act cnt _ => by
    obtain ⟨u, he, ha, hk⟩ := (fullWriteGoesOn t bytes n h.clean (by rw [act]; rfl)).1 (by rw [act]; rfl)
      (by rw [act]; exact cnt)
    rw [act] at ha hk
    rw [bus, cnt] at hk
    exact ⟨u, he, h.quiet bus hk ha⟩

/-- S4: the bytes of the OUT buffer, if there is one, are written (rule R164). -/
theorem goes_s4 (hu : Unhindered s f) :
    Goes s f (m.at 4#4) (serializeInputs f (s.flow f).conf)
      ((m.emits (if (s.flow f).conf.op then [.twrite f (s.flow f).conf.tport
        ((List.range (s.flow f).conf.olen).map fun k => m.byte ((s.flow f).conf.optr + k)) (s.flow f).conf.olen]
        else [])).at 5#4) := by
  unfold serializeInputs
  cases hop : (s.flow f).conf.op with
  | false => simpa [Moment.emits] using goes_s4_pass hu hop
  | true =>
    have gather := goes_gather (m := m) hu hop (s.flow f).conf.olen .idle [] rfl (Nat.zero_add _)
    rw [List.nil_append, List.length_nil, ← List.range_eq_range'] at gather
    exact gather.trans (goes_s4_written hu _ _)

/-- S5 when no filler is to be sent (rule R165). -/
theorem goes_s5_pass (hu : Unhindered s f) (hn : (s.flow f).conf.op = true ∨ (s.flow f).conf.ip = false) :
    Goes s f (m.at 5#4) (turns f 1) (m.at 6#4) :=
  goes_turn hu rfl rfl rfl fun t h bus act ready => by
    obtain ⟨u, he, ha, hk⟩ := (s5SendsFillerForInputOnly t ready).2 (by rw [act]; exact hn)
    rw [act] at ha
    rw [bus] at hk
    exact ⟨u, he, h.quiet bus hk ha⟩

/-- S5 sends the filler byte (rule R165). -/
theorem goes_s5_issue (hu : Unhindered s f) (hop : (s.flow f).conf.op = false) (hip : (s.flow f).conf.ip = true) :
    Goes s f (m.at 5#4) (turns f 1) (m.inside 5#4 (.twrite [s.cfg.filler] 1) .idle) :=
  goes_turn hu rfl rfl rfl fun t h bus act ready => by
    obtain ⟨u, he, ha, hk⟩ := (s5SendsFillerForInputOnly t ready).1 (by rw [act]; exact hop) (by rw [act]; exact hip)
    rw [act, h.cfg] at ha
    rw [bus] at hk
    exact ⟨u, he, h.quiet bus hk ha⟩

/-- The filler byte is written, and the line driven low once more (rules R165, R193). -/
theorem goes_s5_written (hu : Unhindered s f) (bytes : List Byte) (n : Nat) :
    Goes s f (m.inside 5#4 (.twrite bytes n) .idle) [.answer f true 1 []]
      (({ m with line := .low }.emits
        [.twrite f (s.flow f).conf.tport bytes 1, .lclr f (s.flow f).conf.latch]).at 6#4) :=
  goes_answer (i := .twrite) hu rfl fun t h bus act cnt _ => by
    obtain ⟨u, he, ha, hl, hk⟩ := (fullWriteGoesOn t bytes n h.clean (by rw [act]; rfl)).2 (by rw [act]; rfl) cnt
    rw [act] at ha hl hk
    rw [bus, cnt] at hk
    exact ⟨u, he, h.drive bus hk ha hl⟩

/-- S4 and S5: the transport writes of the cycle, the line staying low (rules R164, R165). -/
theorem goes_writes (hu : Unhindered s f) (hline : m.line = .low) :
    Goes s f (m.at 4#4) (serializeInputs f (s.flow f).conf ++ fillerInputs f (s.flow f).conf)
      ((m.emits (writeEvents s.cfg f (s.flow f).conf
        ((List.range (s.flow f).conf.olen).map fun k => m.byte ((s.flow f).conf.optr + k)))).at 6#4) := by
  refine (goes_s4 hu).trans ?_
  unfold fillerInputs writeEvents
  cases hop : (s.flow f).conf.op with
  | true => simpa using goes_s5_pass hu (.inl hop)
  | false =>
    cases hip : (s.flow f).conf.ip with
    | false => simpa [Moment.emits] using goes_s5_pass hu (.inr hip)
    | true =>
      have := (goes_s5_issue (m := m) hu hop hip).trans (goes_s5_written hu _ _)
      rw [← hline] at this
      simpa [Moment.emits] using this

end Sys2Proof.Machine
end

section
/-! The settling delays and the input steps of a cycle from moment to moment, and the whole cycle (rules R166 to R174,
R179). -/

namespace Sys2Proof.Machine

variable {s : State} {f : Nat} {m : Moment}

/-! S6 and S9. -/

/-- Time counts a hold down to its end (rule R197). -/
theorem goes_ticks {d : Hold} {k : StepCode} (hu : Unhindered s f) (hk : k ≠ 1#4) (n : Nat) :
    Goes s f ({ m with hold := n }.inside k (.delay d) .idle) (List.replicate n (.tick f))
      ({ m with hold := 0 }.inside k (.delay d) .idle) := by
  induction n with
  | zero => exact Goes.refl s f _
  | succ n ih => exact (goes_tick hu hk rfl).trans ih

/-- A settling delay: it begins, the time it lasts passes, and it ends with its event (rules R166, R169). -/
theorem goes_hold {d : Hold} {k after : StepCode} {i : Instr} {n : Nat} (hu : Unhindered s f) (hk : k ≠ 1#4)
    (hd : decodeS k = .ok i)
    (hold : ∀ t, t.cfg = s.cfg → t.fatal = false → t.stepTaken k (.delay d) →
      exec i t = holdStep d n after t t.bus.flow t.actor) :
    Goes s f (m.at k) (holdInputs f n) (({ m with hold := 0 }.emits [.delay f d]).at after) := by
  have start : Goes s f (m.at k) (turns f 1) ({ m with hold := n }.inside k (.delay d) .idle) :=
    goes_turn hu rfl rfl hd fun t h bus act ready => by
      obtain ⟨u, he, ha, hk⟩ := holdStep_begins d n after (s := t) (by rw [act]; rfl)
      rw [act] at ha
      rw [bus] at hk
      exact ⟨u, (hold t h.cfg h.clean.1 (stepTaken_of_ready _ ready)).trans he, h.quiet bus hk ha⟩
  have stop : Goes s f ({ m with hold := 0 }.inside k (.delay d) .idle) (turns f 1)
      (({ m with hold := 0 }.emits [.delay f d]).at after) :=
    goes_turn hu rfl rfl hd fun t h bus act ready => by
      obtain ⟨u, he, ha, hk⟩ := (holdStep_lasts d n after (s := t) (by rw [act]; rfl)).2 (by rw [act]; rfl)
      rw [act] at ha
      rw [bus] at hk
      exact ⟨u, (hold t h.cfg h.clean.1 (stepTaken_of_waiting ready)).trans he, h.quiet bus hk ha⟩
  exact start.trans ((goes_ticks hu hk n).trans stop)

/-- S6 (rule R166). -/
theorem goes_s6 (hu : Unhindered s f) :
    Goes s f (m.at 6#4) (holdInputs f s.cfg.tSettlePre) (({ m with hold := 0 }.emits [.delay f .pre]).at 7#4) :=
  goes_hold (i := .s6SettlePre) hu (by decide) rfl fun _ hc hf h => hc ▸ exec_s6SettlePre_taken hf h

/-- S9 (rule R169). -/
theorem goes_s9 (hu : Unhindered s f) :
    Goes s f (m.at 9#4) (holdInputs f s.cfg.tSettlePost) (({ m with hold := 0 }.emits [.delay f .post]).at 10#4) :=
  goes_hold (i := .s9SettlePost) hu (by decide) rfl fun _ hc hf h => hc ▸ exec_s9SettlePost_taken hf h

/-- S7 (rule R167). -/
theorem goes_s7 (hu : Unhindered s f) :
    Goes s f (m.at 7#4) (turns f 1) (({ m with line := .high }.emits [.lset f (s.flow f).conf.latch]).at 8#4) :=
  goes_turn hu rfl rfl rfl fun t h bus act ready => by
    obtain ⟨u, he, hl, ha, hk⟩ := s7DrivesLatchHigh t ready
    rw [act] at hl ha hk
    rw [bus] at hk
    exact ⟨u, he, h.drive bus hk ha hl⟩

/-! S8. -/

/-- `MEM` with bytes stored one after the other from an address on. -/
def storedFrom (mem : Nat → Byte) : Nat → List Byte → Nat → Byte
  | _, [] => mem
  | p, v :: vs => storedFrom (fun a => if a = p then v else mem a) (p + 1) vs

/-- What is read after the stores: the bytes stored at their addresses, and elsewhere what was there. -/
theorem storedFrom_apply (mem : Nat → Byte) (p : Nat) (vs : List Byte) (a : Nat) :
    storedFrom mem p vs a = if p ≤ a ∧ a < p + vs.length then vs.getD (a - p) 0#8 else mem a := by
  induction vs generalizing mem p with
  | nil => rw [storedFrom, if_neg (by rw [List.length_nil]; omega)]
  | cons v vs ih =>
    rw [storedFrom, ih, List.length_cons]
    rcases Nat.lt_trichotomy a p with h | rfl | h
    · rw [if_neg (by omega), if_neg (by omega), if_neg (by omega)]
    · rw [if_neg (by omega), if_pos rfl, if_pos (by omega), Nat.sub_self, List.getD_cons_zero]
    · obtain ⟨j, rfl⟩ : ∃ j, a = p + 1 + j := ⟨a - (p + 1), by omega⟩
      rw [show p + 1 + j - (p + 1) = j by omega, show p + 1 + j - p = j + 1 by omega, List.getD_cons_succ]
      exact if_congr (by omega) rfl (if_neg (by omega))

/-- S8 without an input buffer (rule R168). -/
theorem goes_s8_pass (hu : Unhindered s f) (hip : (s.flow f).conf.ip = false) :
    Goes s f (m.at 8#4) (turns f 1) (m.at 9#4) :=
  goes_turn hu rfl rfl rfl fun t h bus act ready => by
    obtain ⟨u, he, ha, hk⟩ := (s8DeserializesInput t ready).1 (by rw [act]; exact hip)
    rw [act] at ha
    rw [bus] at hk
    exact ⟨u, he, h.quiet bus hk ha⟩

/-- S8 issues the read (rule R168). -/
theorem goes_s8_issue (hu : Unhindered s f) (hip : (s.flow f).conf.ip = true) :
    Goes s f (m.at 8#4) (turns f 1) (m.inside 8#4 (.tread (s.flow f).conf.ilen) .idle) :=
  goes_turn hu rfl rfl rfl fun t h bus act ready => by
    obtain ⟨u, he, ha, hk⟩ := (s8DeserializesInput t ready).2.1 (by rw [act]; exact hip) (by rw [act]; rfl)
    rw [act] at ha
    rw [bus] at hk
    exact ⟨u, he, h.quiet bus hk ha⟩

/-- The read is answered with the bytes of the whole IN buffer (rules R168, R194). -/
theorem goes_s8_answered (hu : Unhindered s f) {data : List Byte} (hlen : data.length = (s.flow f).conf.ilen) :
    Goes s f (m.inside 8#4 (.tread (s.flow f).conf.ilen) .idle) [.answer f true (s.flow f).conf.ilen data]
      ((m.emits [.tread f (s.flow f).conf.tport (s.flow f).conf.ilen (s.flow f).conf.ilen data]).inside 8#4 .none
        (.store 0 data)) :=
  goes_answer (i := .tread) hu rfl fun t h bus act cnt bytes => by
    obtain ⟨u, he, ha, hk⟩ := fullReadWaitsToBeStored t _ h.clean (by rw [act]; rfl) (by rw [act]; rfl) (by rw [act]; rfl)
      cnt (by rw [bytes]; exact hlen)
    rw [act, bytes] at ha
    rw [act, bus, cnt, bytes] at hk
    exact ⟨u, he, h.quiet bus hk ha⟩

/-- S8 stores the bytes it has left, one a transition, and ends (rules R77, R168). -/
theorem goes_stores (hu : Unhindered s f) (hip : (s.flow f).conf.ip = true) (data : List Byte) :
    ∀ (m : Moment) (k : Nat), k + data.length = (s.flow f).conf.ilen →
      Goes s f (m.inside 8#4 .none (.store k data)) (turns f (data.length + 1))
        ({ m with byte := storedFrom m.byte ((s.flow f).conf.iptr + k) data }.at 9#4) := by
  induction data with
  | nil =>
    intro m k _
    refine goes_turn hu rfl rfl rfl fun t h bus act ready => ?_
    obtain ⟨u, he, ha, hk⟩ := (s8DeserializesInput t ready).2.2.2 k (by rw [act]; exact hip) (by rw [act]; rfl)
    rw [act] at ha
    rw [bus] at hk
    exact ⟨u, he, h.quiet bus hk ha⟩
  | cons v rest ih =>
    intro m k hlen
    rw [List.length_cons] at hlen
    have top := (hu.confOk.2.2.2.2.2 hip).2.1
    have store : Goes s f (m.inside 8#4 .none (.store k (v :: rest))) (turns f 1)
        ({ m with byte := fun a => if a = (s.flow f).conf.iptr + k then v else m.byte a }.inside 8#4 .none
          (.store (k + 1) rest)) := by
      refine goes_turn hu rfl rfl rfl fun t h bus act ready => ?_
      obtain ⟨u, he, hv, ha, hk⟩ := (s8DeserializesInput t ready).2.2.1 k v rest (by rw [act]; exact hip)
        (by rw [act]; rfl) (h.anyMidWrite hu _)
        (by rw [act, h.cfg]; exact (by omega : (s.flow f).conf.iptr + k < 2 ^ s.cfg.addrBits))
      rw [act] at hv ha hk
      rw [bus] at hk
      refine ⟨u, he, h.next hk (by simp) ((hk.flow_actor bus).trans ha) (h.line_kept hk rfl) (h.owner_kept hk rfl)
        (fun a => ?_) (List.append_nil _).symm⟩
      by_cases e : a = (s.flow f).conf.iptr + k
      · exact (e ▸ hv).trans (if_pos e).symm
      · exact ((hk.byte a (by simpa [Moment.regs] using e)).trans (h.byte a)).trans (if_neg e).symm
    exact store.trans (ih _ (k + 1) (by omega))

/-- S8: the sampled bytes, if there is an IN buffer, are read and stored in it (rule R168). -/
theorem goes_s8 (hu : Unhindered s f) {data : List Byte} (hlen : data.length = (s.flow f).conf.ilen) :
    Goes s f (m.at 8#4) (deserializeInputs f (s.flow f).conf data)
      (({ m with byte := if (s.flow f).conf.ip then storedFrom m.byte (s.flow f).conf.iptr data else m.byte }.emits
        (if (s.flow f).conf.ip then
          [.tread f (s.flow f).conf.tport (s.flow f).conf.ilen (s.flow f).conf.ilen data] else [])).at 9#4) := by
  unfold deserializeInputs
  cases hip : (s.flow f).conf.ip with
  | false => simpa [Moment.emits] using goes_s8_pass hu hip
  | true =>
    have stores := fun m => goes_stores hu hip data m 0 ((Nat.zero_add _).trans hlen)
    rw [hlen] at stores
    exact (goes_s8_issue hu hip).trans ((goes_s8_answered hu hlen).trans (stores _))

/-! S10 to S12. -/

/-- S10 (rule R170). -/
theorem goes_s10 (hu : Unhindered s f) :
    Goes s f (m.at 10#4) (turns f 1) (({ m with line := .low }.emits [.lclr f (s.flow f).conf.latch]).at 11#4) :=
  goes_turn hu rfl rfl rfl fun t h bus act ready => by
    obtain ⟨u, he, hl, ha, hk⟩ := s10ReturnsLatchLow t ready
    rw [act] at hl ha hk
    rw [bus] at hk
    exact ⟨u, he, h.drive bus hk ha hl⟩

/-- S11 of a flow that holds its primitive exactly when it has one (rule R171). -/
theorem goes_s11 (hu : Unhindered s f) (hheld : m.held = (s.flow f).conf.xp) :
    Goes s f (m.at 11#4) (turns f 1)
      (({ m with held := false, owner := if (s.flow f).conf.xp then none else m.owner }.emits
        (if (s.flow f).conf.xp then [.xrel f (s.flow f).conf.xid] else [])).at 12#4) :=
  goes_turn hu rfl rfl rfl fun t h bus act ready => by
    obtain ⟨release, pass⟩ := s11ReleasesIfHeld t ready
    rw [act] at release pass
    rw [bus] at release pass
    cases hx : (s.flow f).conf.xp with
    | false =>
      obtain ⟨u, he, ha, hk⟩ := pass (hheld.trans hx)
      exact ⟨u, he, h.quiet bus hk (ha.trans (by simp [Moment.regs, Moment.at, Moment.inside, Moment.emits, hheld, hx]))⟩
    | true =>
      obtain ⟨u, he, ho, ha, hk⟩ := release (hheld.trans hx)
      exact ⟨u, he, h.exchange bus hk ha ho⟩

/-- S12 (rule R172). -/
theorem goes_s12 (hu : Unhindered s f) :
    Goes s f (m.at 12#4) (turns f 1) ({ m with timer := (s.flow f).conf.period }.at 1#4) :=
  goes_turn hu rfl rfl rfl fun t h bus act ready => by
    obtain ⟨u, he, ha, hk⟩ := s12ResumesFromStepOne t ready
    rw [act] at ha
    rw [bus] at hk
    exact ⟨u, he, h.quiet bus hk ha⟩

/-! The whole cycle. -/

/-- What the cycle of flow `f` leaves, when the sampled bytes are `data` (rules R174, R179). -/
def Moment.afterCycle (m : Moment) (c : Config) (f : Nat) (r : FlowRecord) (data : List Byte) : Moment where
  pc := 1#4
  trig := false
  held := false
  timer := r.period
  inflight := .none
  work := .idle
  hold := 0
  line := .low
  owner := m.owner
  byte := if r.ip then storedFrom m.byte r.iptr data else m.byte
  events := m.events ++ cycleEvents c f r (if m.trig then .trigger else .period)
    ((List.range r.olen).map fun k => m.byte (r.optr + k)) data

/-- The inputs of a cycle, step by step. -/
theorem cycleInputs_eq (c : Config) (f : Nat) (r : FlowRecord) (data : List Byte) :
    cycleInputs c f r data =
      turns f 1 ++ ((if r.xp then turns f 1 ++ [.answer f true 0 []] else turns f 1) ++ (turns f 1 ++
        ((serializeInputs f r ++ fillerInputs f r) ++ (holdInputs f c.tSettlePre ++ (turns f 1 ++
          (deserializeInputs f r data ++ (holdInputs f c.tSettlePost ++ (turns f 1 ++ (turns f 1 ++ turns f 1))))))))) := by
  have acquire : acquireInputs f r = turns f 1 ++ if r.xp then turns f 1 ++ [.answer f true 0 []] else turns f 1 := by
    unfold acquireInputs
    split <;> rfl
  have last : turns f 3 = turns f 1 ++ (turns f 1 ++ turns f 1) := rfl
  simp only [cycleInputs, acquire, last, List.flatten_cons, List.flatten_nil, List.append_nil, List.append_assoc]

/-- One whole cycle, from a boundary at which the wait is over. -/
theorem goes_cycle (hu : Unhindered s f) (hdue : m.timer = 0 ∨ m.trig = true) (hheld : m.held = false)
    (hown : (s.flow f).conf.xp = true → m.owner = none) {data : List Byte} (hlen : data.length = (s.flow f).conf.ilen) :
    Goes s f (m.at 1#4) (cycleInputs s.cfg f (s.flow f).conf data) (m.afterCycle s.cfg f (s.flow f).conf data) := by
  have run := (goes_s1 hu hdue).trans <| (goes_s2 hu (by exact hheld) (by exact hown)).trans <| (goes_s3 hu).trans <|
    (goes_writes hu (by rfl)).trans <| (goes_s6 hu).trans <| (goes_s7 hu).trans <| (goes_s8 hu hlen).trans <|
    (goes_s9 hu).trans <| (goes_s10 hu).trans <| (goes_s11 hu (by rfl)).trans (goes_s12 hu)
  rw [cycleInputs_eq]
  convert run using 1
  have owner : m.owner = if (s.flow f).conf.xp then none else if (s.flow f).conf.xp then some f else m.owner := by
    split
    · exact hown ‹_›
    · rfl
  simp [Moment.afterCycle, Moment.at, Moment.inside, Moment.emits, cycleEvents, ← owner]

/-- What a state shows of the cycle of a flow, with the events counted from here. -/
def State.momentOf (s : State) (f : Nat) : Moment where
  pc := (s.flow f).pc
  trig := (s.flow f).trig
  held := (s.flow f).held
  timer := (s.flow f).timer
  inflight := (s.flow f).inflight
  work := (s.flow f).work
  hold := (s.flow f).hold
  line := s.latch (s.flow f).conf.latch
  owner := s.owner (s.flow f).conf.xid
  byte := s.byteAt
  events := []

/-- A clean state shows its own moment. -/
theorem shows_momentOf (f : Nat) (h : s.clean) : Shows s f (s.momentOf f) s where
  cfg := rfl
  bar _ := rfl
  port _ := rfl
  flow g := by
    split
    · rw [‹g = _›]; rfl
    · rfl
  latch l := by
    split
    · rw [‹l = _›]; rfl
    · rfl
  owner x := by
    split
    · rw [‹x = _›]; rfl
    · rfl
  byte _ := rfl
  trace := (List.append_nil _).symm
  clean := h

/-- A live flow at step 1 has nothing in flight (rule R33). -/
theorem FlowsInv.inflight_none_at_one (hs : FlowsInv s) (hl : (s.flow f).phase = .live) (hpc : (s.flow f).pc = 1#4) :
    (s.flow f).inflight = .none := by
  have h := (hs.flows f).inflight
  unfold InflightOk at h
  split at h <;> simp_all

/-- A flow at step 1 does not hold its primitive (rule R29). -/
theorem FlowsInv.not_held_at_one (hs : FlowsInv s) (hpc : (s.flow f).pc = 1#4) : (s.flow f).held = false := by
  refine Bool.eq_false_of_not_eq_true fun h => ?_
  obtain ⟨-, -, h3, -⟩ := (hs.flows f).held.1 h
  exact absurd (hpc ▸ h3) (by decide)

/-- A live flow at step 1 is at the beginning of it. -/
theorem Unhindered.momentOf_eq (hu : Unhindered s f) (hpc : (s.flow f).pc = 1#4) :
    s.momentOf f = (s.momentOf f).at 1#4 := by
  have hs := hu.inv.flowsInv
  simp only [State.momentOf, Moment.at, Moment.inside, hpc, hs.inflight_none_at_one hu.live hpc,
    hs.work_idle_at hpc (by decide)]

/-- Settles O60: the steps of the cycle put together (`goes_cycle`), from the moment that the boundary shows. -/
theorem wholeCycle : Obligations.WholeCycle := by
  intro s f data rest hs hclean hl hpc hdue hctx hown hidle hlen hscript
  have hu : Unhindered s f := ⟨hs, hl, hctx, hidle⟩
  have cycle := goes_cycle (m := s.momentOf f) hu hdue (hs.flowsInv.not_held_at_one hpc) hown hlen
  rw [← hu.momentOf_eq hpc] at cycle
  obtain ⟨t, run, script, h⟩ := cycle s rest (shows_momentOf f hclean) hscript
  have regs := (h.flow f).trans (if_pos rfl)
  have owner (x : Nat) : t.owner x = s.owner x := by
    rw [h.owner x]
    split
    · rw [‹x = _›]; rfl
    · rfl
  have byte (a : Nat) : t.byteAt a =
      if (s.flow f).conf.ip = true ∧ (s.flow f).conf.iptr ≤ a ∧ a < (s.flow f).conf.iptr + (s.flow f).conf.ilen
      then data.getD (a - (s.flow f).conf.iptr) 0#8 else s.byteAt a := by
    refine (h.byte a).trans ?_
    rw [Moment.afterCycle, ← hlen]
    cases (s.flow f).conf.ip with
    | false => rfl
    | true => exact (storedFrom_apply ..).trans (if_congr (by simp) rfl rfl)
  refine ⟨t, run, script, h.trace, ?_, ?_, ?_, ?_, ?_, ?_, ?_, (h.latch _).trans (if_pos rfl), byte, owner,
    fun g hg => (h.flow g).trans (if_neg hg), h.bar, fun l hl => (h.latch l).trans (if_neg hl), h.clean⟩
  · rw [regs]; rfl
  · rw [regs]; exact hl
  all_goals rw [regs]; rfl

end Sys2Proof.Machine
end

section
/-! The port operations that complete at once, presented by themselves, and one unit of the time base (rules R190, R191,
R196, R197). -/

namespace Sys2Proof.Machine

/-- Settles O44: each of the three writes its line or its primitive, appends its event, and is answered. -/
theorem instantPortOperations : Obligations.InstantPortOperations := by
  refine ⟨fun s hs hi => ?_, fun s hs hi => ?_, fun s hs hi _ => ?_⟩
  · exact ⟨_, exec_lclr_inflight hs.1 hi, (s.driveLow_latch ..).trans (if_pos rfl), (s.driveLow _).setFlow_actor _,
      ((kept_setFlow ..).setLatch _ _).emit _⟩
  · exact ⟨_, exec_lset_inflight hs.1 hi, (s.driveHigh_latch ..).trans (if_pos rfl), (s.driveHigh _).setFlow_actor _,
      ((kept_setFlow ..).setLatch _ _).emit _⟩
  · exact ⟨_, exec_xrel_inflight hs.1 hi, (s.release_owner ..).trans (if_pos rfl), (s.release _).setFlow_actor _,
      ((kept_setFlow ..).setOwner _ _).emit _⟩

/-- The hold counts down in either of the two delays, and in no other wait. -/
theorem Flow.tick_hold (fl : Flow) :
    fl.tick.hold = if fl.inflight = .delay .pre ∨ fl.inflight = .delay .post then fl.hold - 1 else fl.hold := by
  cases hi : fl.inflight with
  | delay k => cases k <;> simp [Flow.tick, hi]
  | _ => simp [Flow.tick, hi]

/-- Settles O45: the input is that event of its flow, and a unit of time counts two registers of the flow. -/
theorem timeBaseCountsDown : Obligations.TimeBaseCountsDown := by
  intro s f hs hx hf
  have event : step s = tickFlow f (takeInput s) := step_event hs.1 fun u => by rw [hx]; rfl
  have flowExists : f < (takeInput s).cfg.nFlows := by rwa [takeInput_cfg]
  refine ⟨_, event.trans (if_pos flowExists), ?_, kept_setFlow ..⟩
  rw [State.setFlow_flow, if_pos rfl, takeInput_flow, ← Flow.tick_hold]
  rfl

end Sys2Proof.Machine
end

section
/-! Under the fairness assumptions every live flow goes round for ever (rules R160, R172, R199): one that did not move
would come to have all that its next turn needs, so it moves; a move takes it to the next step or nearer to the end of
its step; and whoever holds a primitive comes to step 12, so that one who asks for it finds it free again and again. -/

namespace Sys2Proof.Machine

variable {x : Nat → Input} {r : Nat → State} {n m f : Nat} {a b c : Flow}

/-! Staying. -/

/-- A flow that has not moved in either of two transitions has not moved in both. -/
theorem Flow.Stays.trans (h : a.Stays b) (h' : b.Stays c) : a.Stays c := by
  obtain ⟨pc, inflight, work, due, hold⟩ := h
  obtain ⟨pc', inflight', work', due', hold'⟩ := h'
  exact ⟨pc'.trans pc, inflight'.trans inflight, work'.trans work, due' ∘ due, hold' ∘ hold⟩

/-- A flow that has not moved has as much left to do. -/
theorem Flow.Stays.rank_eq (h : a.Stays b) (hc : b.conf = a.conf) : b.rank = a.rank := by
  obtain ⟨-, inflight, work, -, -⟩ := h
  rw [Flow.rank, Flow.rank, inflight, work, hc]

/-- A flow that no transition from `n` to `m` moves is at `m` where it was at `n`. -/
theorem stays_of_stays_until (hn : n ≤ m)
    (h : ∀ k, n ≤ k → k < m → ((r k).flow f).Stays ((r (k + 1)).flow f)) :
    ((r n).flow f).Stays ((r m).flow f) := by
  induction m, hn using Nat.le_induction with
  | base => exact Flow.stays_refl _
  | succ m hm ih => exact (ih fun k hk hkm => h k hk (by omega)).trans (h m hm (by omega))

/-- A live flow of a run stays live for ever, with the same configuration. -/
theorem Run.live (h : Run x r) (hl : ((r n).flow f).phase = .live) (hn : n ≤ m) :
    ((r m).flow f).phase = .live ∧ ((r m).flow f).conf = ((r n).flow f).conf := by
  induction m, hn using Nat.le_induction with
  | base => exact ⟨hl, rfl⟩
  | succ m _ ih =>
    obtain ⟨live, conf⟩ := run_live h m f ih.1
    exact ⟨live, conf.trans ih.2⟩

/-! What a flow waits for comes. -/

/-- A run in which the four fairness assumptions of rule R199 hold, every sequencer goes on getting turns, and each flow
has an execution context of its own (log 27): the premises of FairFlowsKeepCycling. -/
structure FairRun (x : Nat → Input) (r : Nat → State) : Prop extends Run x r where
  periods : FairPeriods r
  holds : FairHolds r
  answers : FairAnswers r
  grants : FairGrants r
  turns : TurnsForAll x r
  contexts : OwnContexts r

/-- Primitive `y` is free again and again. -/
def FreeAgain (r : Nat → State) (y : Nat) : Prop := ∀ k, Later k fun m => (r m).owner y = none

/-- With an execution context of its own no live flow is kept from its step by another (rule R177). -/
theorem FairRun.ctxFree (h : FairRun x r) (hl : ((r n).flow f).phase = .live) : (r n).ctxFree f = true := by
  refine ctxFree_iff.2 fun g _ => or_iff_not_imp_left.2 fun hg => or_iff_not_imp_right.2 fun hr => ?_
  exact h.contexts n g f hg (not_not.1 hr).1 hl

/-- The flow waits for nothing: neither for the end of S1's wait or of a hold, nor for an answer. -/
def Flow.Ready (fl : Flow) : Prop :=
  (fl.pc = 1#4 → fl.due) ∧ (fl.inflight = .none ∨ fl.hold = 0 ∧ ∃ d, fl.inflight = .delay d)

/-- A flow that waits for nothing and has not moved still waits for nothing. -/
theorem Flow.Stays.ready (h : a.Stays b) (ha : a.Ready) : b.Ready := by
  obtain ⟨pc, inflight, -, due, hold⟩ := h
  rw [Flow.Ready, pc, inflight]
  exact ⟨due ∘ ha.1, ha.2.imp_right (And.imp_left hold)⟩

/-- No transition from `n` on moves the flow. -/
def Stuck (r : Nat → State) (f n : Nat) : Prop := ∀ k, n ≤ k → ((r k).flow f).Stays ((r (k + 1)).flow f)

/-- A flow that never moves from `n` on never moves from a later moment on. -/
theorem Stuck.mono (h : Stuck r f n) (hn : n ≤ m) : Stuck r f m := fun k hk => h k (hn.trans hk)

/-- A flow that never moves is for ever where it was. -/
theorem Stuck.stays (h : Stuck r f n) (hn : n ≤ m) : ((r n).flow f).Stays ((r m).flow f) :=
  stays_of_stays_until hn fun k hk _ => h k hk

/-- What a live flow that never moves waits for comes: the time base and the transports by assumptions (a) to (c), the
primitive by (d), when that is free again and again. -/
theorem FairRun.later_ready (h : FairRun x r) (hl : ((r n).flow f).phase = .live) (hs : Stuck r f n)
    (hfree : ((r n).flow f).pc = 2#4 → ∀ y, FreeAgain r y) : Later n fun m => ((r m).flow f).Ready := by
  have hinv := (h.inv n).flowsInv
  by_cases h1 : ((r n).flow f).pc = 1#4
  · obtain ⟨m, hm, hd⟩ := h.periods f n hl h1
    obtain ⟨pc, inflight, -⟩ := hs.stays hm
    exact ⟨m, hm, fun _ => hd.resolve_right (not_not.2 (pc.trans h1)),
      .inl (inflight.trans (hinv.inflight_none_at_one hl h1))⟩
  · have off (m : Nat) (hm : n ≤ m) : ((r m).flow f).pc ≠ 1#4 := (hs.stays hm).1 ▸ h1
    have ready {m : Nat} (hm : n ≤ m) (hi : ((r m).flow f).inflight = .none) : Later n fun m => ((r m).flow f).Ready :=
      ⟨m, hm, fun e => absurd e (off m hm), .inl hi⟩
    have inflightOk := (hinv.flows f).inflight
    cases hi : ((r n).flow f).inflight with
    | none => exact ready le_rfl hi
    | topen | twrite | tread =>
      obtain ⟨m, hm, hnone⟩ := h.answers f n (by rw [hi]; trivial)
      exact ready hm hnone
    | xacq y =>
      obtain ⟨m, hm, hnone⟩ := h.grants f y n hi (hfree (hinv.xacq_inflight hi).2.1 y)
      exact ready hm hnone
    | delay d =>
      obtain ⟨m, hm, hend⟩ := h.holds f d n hi
      have same : ((r m).flow f).inflight = .delay d := (hs.stays hm).2.1.trans hi
      exact ⟨m, hm, fun e => absurd e (off m hm), .inr ⟨hend.resolve_right (not_not.2 same), d, same⟩⟩
    | lclr | lset | xrel => simp [InflightOk, hi] at inflightOk

/-! Moving. -/

/-- A live flow moves at some moment: its next turn after what it waits for has come would move it. -/
theorem FairRun.not_stuck (h : FairRun x r) (hl : ((r n).flow f).phase = .live)
    (hfree : ((r n).flow f).pc = 2#4 → ∀ y, FreeAgain r y) : ¬ Stuck r f n := by
  intro hs
  obtain ⟨m, hm, ready⟩ := h.later_ready hl hs hfree
  have hf : f < (r m).cfg.nFlows := ((h.inv m).confs f (by simp [(h.live hl hm).1])).1
  obtain ⟨k, hk, turn⟩ := h.turns f m hf
  have hn : n ≤ k := hm.trans hk
  obtain ⟨due, idle⟩ := ((hs.mono hm).stays hk).ready ready
  have live := (h.live hl hn).1
  exact run_turn h.toRun k f live turn (h.ctxFree live) due idle (hs k hn)

/-- The first transition that moves a live flow. -/
theorem FairRun.first_move (h : FairRun x r) (hl : ((r n).flow f).phase = .live)
    (hfree : ((r n).flow f).pc = 2#4 → ∀ y, FreeAgain r y) :
    Later n fun m => ((r n).flow f).Stays ((r m).flow f) ∧ ¬ ((r m).flow f).Stays ((r (m + 1)).flow f) := by
  have ex : ∃ m, n ≤ m ∧ ¬ ((r m).flow f).Stays ((r (m + 1)).flow f) := by
    simpa [Stuck] using h.not_stuck hl hfree
  classical
  obtain ⟨hm, moves⟩ := Nat.find_spec ex
  exact ⟨_, hm, stays_of_stays_until hm fun k hk hkm => not_not.1 fun hk' => Nat.find_min ex hkm ⟨hk, hk'⟩, moves⟩

/-- A live flow comes to the next step: every move that does not take it there brings it nearer to the end of its step
(rule R160). -/
theorem FairRun.next_step (h : FairRun x r) (hl : ((r n).flow f).phase = .live)
    (hfree : ((r n).flow f).pc = 2#4 → ∀ y, FreeAgain r y) :
    Later n fun m => ((r m).flow f).pc = ((r n).flow f).pc ∧ ((r (m + 1)).flow f).pc = stepAfter ((r n).flow f).pc := by
  induction hk : ((r n).flow f).rank using Nat.strong_induction_on generalizing n with
  | _ k ih =>
    obtain ⟨m, hm, stays, moves⟩ := h.first_move hl hfree
    obtain ⟨live, conf⟩ := h.live hl hm
    have pc : ((r m).flow f).pc = ((r n).flow f).pc := stays.1
    rcases (run_goes h.toRun m f live).resolve_left moves with next | ⟨same, less⟩
    · exact ⟨m, hm, pc, pc ▸ next⟩
    · have pc' := same.trans pc
      rw [stays.rank_eq conf, hk] at less
      obtain ⟨m', hm', h1, h2⟩ := ih _ less (run_live h.toRun m f live).1 (pc' ▸ hfree) rfl
      exact ⟨m', by omega, h1.trans pc', pc' ▸ h2⟩

/-- A live flow comes to step 12, when the primitives it may still ask for are free again and again. -/
theorem FairRun.reaches_twelve (h : FairRun x r) (hl : ((r n).flow f).phase = .live)
    (hfree : ((r n).flow f).pc ≤ 2#4 → ∀ y, FreeAgain r y) : Later n fun m => ((r m).flow f).pc = 12#4 := by
  induction hk : 12 - ((r n).flow f).pc.toNat generalizing n with
  | zero =>
    obtain ⟨-, last, -⟩ := ((h.inv n).flows f).stepping hl
    exact ⟨n, le_rfl, by bv_omega⟩
  | succ k ih =>
    obtain ⟨first, last, -⟩ := ((h.inv n).flows f).stepping hl
    obtain ⟨m, hm, -, next⟩ := h.next_step hl fun e => hfree (by simp [e])
    obtain ⟨-, -, more⟩ := (stepAfter_toNat _ first last).resolve_right (by omega)
    rw [← next] at more
    have hm1 : n ≤ m + 1 := by omega
    obtain ⟨m', hm', twelve⟩ := ih (h.live hl hm1).1 (fun low => hfree (by bv_omega)) (by omega)
    exact ⟨m', hm1.trans hm', twelve⟩

/-! The primitives. -/

/-- A primitive that `f` owns, and at some later moment does not own, is free in between or then: nobody takes it before
it is free. -/
theorem Run.later_free {y : Nat} (h : Run x r) (ho : (r n).owner y = some f) (hn : n ≤ m)
    (hm : (r m).owner y ≠ some f) : Later n fun k => (r k).owner y = none := by
  induction m, hn using Nat.le_induction with
  | base => exact absurd ho hm
  | succ m hnm ih =>
    by_cases owned : (r m).owner y = some f
    · exact ⟨m + 1, by omega, (run_owner h m y f owned).resolve_left hm⟩
    · exact ih owned

/-- Whoever owns a primitive is in steps 3 to 11, asks for nothing before step 12, and there owns it no more: every
primitive is free again and again (rules R29, R171). -/
theorem FairRun.freeAgain (h : FairRun x r) (y : Nat) : FreeAgain r y := by
  intro n
  cases ho : (r n).owner y with
  | none => exact ⟨n, le_rfl, ho⟩
  | some g =>
    have held := (((h.inv n).owners y g).1 ho).1
    obtain ⟨-, live, low, -⟩ := ((h.inv n).flows g).held.1 held
    obtain ⟨m, hm, twelve⟩ := h.reaches_twelve live fun two => by bv_omega
    refine h.later_free ho hm fun owned => ?_
    obtain ⟨-, -, -, high⟩ := ((h.inv m).flows g).held.1 (((h.inv m).owners y g).1 owned).1
    rw [twelve] at high
    exact absurd high (by decide)

/-- Settles O38: the flow comes to step 12 (`reaches_twelve`), every primitive being free again and again (`freeAgain`),
and from there to step 1. -/
theorem fairFlowsKeepCycling : Obligations.FairFlowsKeepCycling := by
  intro x r run periods holds answers grants turns contexts f n hl
  have h : FairRun x r := { run with periods, holds, answers, grants, turns, contexts }
  obtain ⟨k, hk, twelve⟩ := h.reaches_twelve hl fun _ => h.freeAgain
  obtain ⟨m, hm, here, next⟩ := h.next_step (h.live hl hk).1 fun _ => h.freeAgain
  rw [twelve] at here next
  have hn : n ≤ m := hk.trans hm
  exact ⟨m, hn, here, next, (h.live hl (hn.trans m.le_succ)).1⟩

end Sys2Proof.Machine
end

section
/-! The fatal halt: what raises it, what it records, and that nothing but a restart follows it (rules R212 to R218,
R220, R250). -/

namespace Sys2Proof.Machine

variable {s t : State} {i : Instr}

/-! A halted block (rules R216, R220). -/

/-- In a halted block no operation has a step. -/
theorem exec_halted (h : s.fatal = true) (i : Instr) : exec i s = .fault (.halted s.fatalCause s.fatalUnit) := by
  cases i <;> exact unlessHalted_of_halted h _

/-- In a halted block every input but a restart answers the fault `halted`. -/
theorem serve_halted {x : Input} (h : s.fatal = true) (hx : x ≠ .restart) :
    serve x s = .done (.fault (.halted s.fatalCause s.fatalUnit)) := by
  cases x with
  | restart => exact absurd rfl hx
  | host | resume | sequencer | answer => exact if_pos h
  | tick | ownerWrite | bufferGone | sync => exact congrArg Fetched.done (unlessHalted_of_halted h _)

/-- Settles O9: `exec_halted` for the operations, `serve_halted` for the inputs; a restart is the state after reset but
for what the host keeps. -/
theorem haltIsLeftOnlyByRestart : Obligations.HaltIsLeftOnlyByRestart := by
  intro s h
  refine ⟨exec_halted h, fun hx => ?_, fun hx => ⟨(takeInput s).restart, ?_, rfl, fun _ => rfl, fun _ => rfl⟩⟩
  · obtain ⟨sc, d, hT⟩ := takeInput_eq s
    rw [step, fetch, hT, serve_halted (s := { s with script := sc, draws := d }) h hx]
  · rw [step, fetch, hx, serve]

/-! What a halting transition changes (rules R216, R218). -/

/-- A fatal halt after other changes: the halt registers and one event more, the last. -/
theorem Kept.raiseFatal {w : Touch} (h : Kept w s t) (c : Cause) (u : Nat) :
    Kept { w with events := w.events ++ [.fatal c u], halt := some (c, u) } s (t.raiseFatal c u) :=
  { h with
    trace := by rw [State.raiseFatal_trace, h.trace, List.append_assoc]
    halt := rfl }

/-- The operations whose meaning tests the answer, and halts the block on a wrong one (rules R212, R214, R215). -/
abbrev Instr.TestsAnswer (i : Instr) : Prop := i = .topen ∨ i = .twrite ∨ i = .tread

/-- A move that halts the block appends the FATAL event after the answer's, if it took one, and of the flow whose turn it
is it changes the operation in flight at most. -/
theorem move_halts (h : Move s i t) (hf : s.fatal = false) (ht : t.fatal = true) :
    ∃ es c u, es.length ≤ 1 ∧
      Kept { flows := [s.bus.flow], events := es ++ [.fatal c u], halt := some (c, u) } s t ∧
      (t.flow s.bus.flow = s.actor ∨
        Instr.TestsAnswer i ∧ t.flow s.bus.flow = { s.actor with inflight := .none }) := by
  have running : t.fatal ≠ s.fatal := by rw [ht, hf]; decide
  cases h with
  | bwriteWrite _ _ _ _ _ _ _ hw =>
    obtain ⟨⟨m, rfl, -⟩, -⟩ := writeBytes_spec hw
    exact absurd rfl running
  | bnewHalt | fnewHalt =>
    exact ⟨[], _, _, Nat.zero_le 1, { kept_raiseFatal s _ _ with flow := fun _ _ => rfl }, .inl rfl⟩
  | topenHalt | twriteHalt | treadHalt =>
    exact ⟨[_], _, _, le_rfl, ((kept_setFlow ..).emit _).raiseFatal _ _, .inr ⟨by decide, answered_actor s⟩⟩
  | _ => exact absurd rfl running

/-- A transition that halts the block is a move of the operation that the input selects. -/
theorem step_halts (h : step s = .next t) (hf : s.fatal = false) (ht : t.fatal = true) :
    ∃ sc d b i, serve (nextInput s) (takeInput s) = .run i { s with script := sc, draws := d, bus := b } ∧
      Move { s with script := sc, draws := d, bus := b } i t := by
  have running : t.fatal ≠ s.fatal := by rw [ht, hf]; decide
  rcases step_next h with ⟨-, sc, d, rfl⟩ | ⟨-, -, sc, d, b, u, rfl, hc⟩
  · exact absurd hf.symm running
  · rcases hc with rfl | ⟨i, hr, hm⟩ | ⟨w, rfl⟩ | ⟨g, -, -, rfl⟩ | ⟨a, c, -, rfl⟩ | ⟨p, a, v, -, -, -, hw⟩
    · exact absurd rfl running
    · exact ⟨sc, d, b, i, hr, hm⟩
    · exact absurd rfl running
    · exact absurd rfl running
    · exact absurd rfl running
    · obtain ⟨-, rfl⟩ := memWrite_eq_some.1 hw
      exact absurd rfl running

/-- An operation that tests an answer is selected by the answer of its flow only (rules R33, R97). -/
theorem serve_testsAnswer {x : Input} (h : serve x s = .run i t) (hi : Instr.TestsAnswer i) :
    ∃ ok cnt data, x = .answer t.bus.flow ok cnt data := by
  rcases serve_run_cases h with ⟨p, w, r, q, -, -, -, -, hd, -⟩ | ⟨p, b, v, old, -, -, rfl, -⟩ |
    ⟨f, -, -, -, hd, -⟩ | ⟨f, ok, cnt, data, rfl, -, -, rfl⟩
  · have host := decodeH_class hd
    rcases hi with rfl | rfl | rfl <;> simp at host
  · exact absurd hi (by simp)
  · have cycle := decodeS_class hd
    rcases hi with rfl | rfl | rfl <;> simp at cycle
  · exact ⟨ok, cnt, data, rfl⟩

/-- Settles O10: a transition that halts is a move (`step_halts`), a halting move keeps all but the flow of its answer
(`move_halts`), and it takes one only when the input is the answer of that flow (`serve_testsAnswer`). -/
theorem haltChangesNothingElse : Obligations.HaltChangesNothingElse := by
  intro s t h hf ht
  obtain ⟨sc, d, b, i, hr, hm⟩ := step_halts h hf ht
  obtain ⟨es, c, u, hlen, hk, actor⟩ := move_halts hm hf ht
  obtain ⟨-, rfl, rfl⟩ : t.fatal = true ∧ t.fatalCause = c ∧ t.fatalUnit = u := by simpa using hk.halt
  obtain ⟨mark, why⟩ : t.refused = s.refused ∧ t.refusedWhy = s.refusedWhy := by simpa using hk.refusal
  refine ⟨hk.cfg, fun k => hk.bar k List.not_mem_nil, fun f => ?_, fun k => hk.latch k List.not_mem_nil,
    fun k => hk.owner k List.not_mem_nil, fun k => hk.port k List.not_mem_nil, fun k => hk.byte k List.not_mem_nil,
    mark, why, es, hlen, hk.trace.trans (List.append_assoc ..).symm⟩
  by_cases e : f = b.flow
  · subst e
    exact actor.imp_right fun ⟨hi, ha⟩ => ⟨serve_testsAnswer hr hi, ha⟩
  · exact .inl (hk.flow f (by simpa using e))

/-! The three halts of an answer, and that of FNEW (rules R212 to R215). -/

/-- A buffer that is not empty and ends inside the address space passes FNEW's tests of length and of wrapping (rule
R141). -/
theorem not_zeroLength_not_wraps {c : Config} {r : FlowRecord}
    (hout : r.op = true → 1 ≤ r.olen ∧ r.optr + r.olen ≤ 2 ^ c.addrBits)
    (hin : r.ip = true → 1 ≤ r.ilen ∧ r.iptr + r.ilen ≤ 2 ^ c.addrBits) : ¬ r.zeroLength ∧ ¬ r.wraps c := by
  refine ⟨?_, ?_⟩
  · rintro (⟨h, hlen⟩ | ⟨h, hlen⟩)
    · exact Nat.one_le_iff_ne_zero.1 (hout h).1 hlen
    · exact Nat.one_le_iff_ne_zero.1 (hin h).1 hlen
  · rintro (⟨h, htop⟩ | ⟨h, htop⟩)
    · exact absurd (hout h).2 (not_le.2 htop)
    · exact absurd (hin h).2 (not_le.2 htop)

/-- Settles O22: the record passes the tests of `exec_fnew_free` up to the last, and the halt writes no flow. -/
theorem misalignedBufferHalts : Obligations.MisalignedBufferHalts := by
  intro s f ⟨⟨hf, _⟩, hp⟩ hn hv r htport hlatch hxid hperiod hout hin hshare hmis
  have shared : s.sharingOk r = true := sharingOk_iff.2 fun g hg => or_iff_not_imp_left.2 (hshare g hg)
  obtain ⟨long, fits⟩ := not_zeroLength_not_wraps hout hin
  refine ⟨s.raiseFatal .initMisaligned f.toNat, ?_, hv, kept_raiseFatal ..⟩
  rw [exec_fnew_free hf hp, if_neg ?named, if_neg (not_le.2 hperiod), if_neg long, if_neg fits, if_neg (by simp [r, shared]),
    if_pos hmis]
  case named => simpa [hn, hv] using ⟨htport, hlatch, hxid⟩

/-- Settles O25: TOPEN is in flight of a CONSTRUCTED flow only, and FINIT halts on the answer 0. -/
theorem failedOpenHalts : Obligations.FailedOpenHalts := by
  intro s hs ⟨hf, _⟩ hi hok
  have hph : s.actor.phase = .constructed := hs.flowsInv.topen_inflight hi
  have hpc : s.actor.pc = 0#4 := ((hs.flows _).stopped (by rw [← State.actor, hph]; decide)).1
  rw [exec_topen_inflight hf hi, if_pos hph, hok, finitOpened, if_neg Bool.false_ne_true]
  have actor := answered_actor s
  exact ⟨_, rfl, (congrArg Flow.phase actor).trans hph, (congrArg Flow.pc actor).trans hpc, actor,
    ((kept_setFlow ..).emit _).raiseFatal _ _⟩

/-- What TWRITE has in flight is what the step of its flow compares the answer with: `OLEN` in S4, 1 in S5 (rules R164,
R165). -/
theorem FlowsInv.twrite_count {f : Nat} {bytes : List Byte} {n : Nat} (hs : FlowsInv s)
    (h : (s.flow f).inflight = .twrite bytes n) :
    ((s.flow f).pc = 4#4 ∧ n = (s.flow f).conf.olen) ∨ ((s.flow f).pc = 5#4 ∧ n = 1) := by
  have hi := (hs.flows f).inflight
  rw [InflightOk, h] at hi
  obtain ⟨hlen, -, ⟨hj, -, hn⟩ | ⟨hj, -, -, rfl⟩⟩ := hi
  · exact .inl ⟨hj, hn⟩
  · exact .inr ⟨hj, hlen.symm⟩

/-- TWRITE answered with another count than it has in flight halts the block, in S4 and in S5 (rule R214). -/
theorem exec_twrite_short {bytes : List Byte} {n : Nat} (hs : FlowsInv s) (hf : s.fatal = false)
    (hi : s.actor.inflight = .twrite bytes n) (hcnt : s.bus.cnt ≠ n) :
    exec .twrite s = .next (((s.answered s.bus.flow).emit
      (.twrite s.bus.flow s.actor.conf.tport bytes s.bus.cnt)).raiseFatal .ioShortWrite s.bus.flow) := by
  rw [exec_twrite_inflight hf hi]
  obtain ⟨hj, rfl⟩ | ⟨hj, rfl⟩ : (s.actor.pc = 4#4 ∧ n = s.actor.conf.olen) ∨ (s.actor.pc = 5#4 ∧ n = 1) :=
    hs.twrite_count hi
  · rw [if_pos hj, s4Written, State.emit_flow, answered_actor, if_pos hcnt, raise]
  · have other : s.actor.pc ≠ 4#4 := by rw [hj]; decide
    have short : s.bus.cnt ≠ 1 := hcnt
    rw [if_neg other, if_pos hj, s5Written, if_pos short, raise]

/-- Settles O34: the halt is that of `exec_twrite_short`; what it finds low and held the invariant says of S4 and S5. -/
theorem shortWriteHalts : Obligations.ShortWriteHalts := by
  intro s bytes n hs ⟨hf, _⟩ hi hcnt
  obtain ⟨hl, hj⟩ : s.actor.phase = .live ∧ (s.actor.pc = 4#4 ∨ s.actor.pc = 5#4) := hs.flowsInv.twrite_inflight hi
  have inside : 4#4 ≤ s.actor.pc ∧ s.actor.pc ≤ 7#4 := by rcases hj with hj | hj <;> rw [hj] <;> decide
  have low : s.latch s.actor.conf.latch = .low := (hs.latches _ hl).1 inside.1 inside.2
  have actor := answered_actor s
  refine ⟨_, exec_twrite_short hs.flowsInv hf hi hcnt, ?_, low, fun hx => ?_, actor,
    ((kept_setFlow ..).emit _).raiseFatal _ _⟩
  · exact hj.imp (congrArg Flow.pc actor).trans (congrArg Flow.pc actor).trans
  · exact (congrArg Flow.held actor).trans (hs.flowsInv.holds_and_owns (hs.flowsInv.twrite_inBusSteps hi) hx).1

/-- Settles O40: TREAD is in flight in S8 only, for all bytes of the IN buffer, so a wrong count halts before any byte is
stored. -/
theorem shortReadHalts : Obligations.ShortReadHalts := by
  intro s n hs ⟨hf, _⟩ hi hcnt
  obtain ⟨hl, hj, -, rfl⟩ : s.actor.phase = .live ∧ s.actor.pc = 8#4 ∧ _ ∧ n = s.actor.conf.ilen :=
    hs.flowsInv.tread_inflight hi
  have high : s.latch s.actor.conf.latch = .high :=
    (hs.latches _ hl).2.1 (by rw [← State.actor, hj]; decide) (by rw [← State.actor, hj]; decide)
  rw [exec_tread_inflight hf hi, if_neg fun h => hcnt h.1, if_pos hj, s8Answered, State.emit_flow, answered_actor,
    if_pos hcnt, raise]
  have actor := answered_actor s
  exact ⟨_, rfl, (congrArg Flow.pc actor).trans hj, high, actor, ((kept_setFlow ..).emit _).raiseFatal _ _⟩

end Sys2Proof.Machine
end
